-- ==== Sys2Proof/Word.lean ====
section
/-! DEFINITION. The two word types of the core (R6, R60): an 8-bit byte and a 16-bit address. -/

namespace Sys2Proof

/-- A register, an operand byte or a memory byte: 8 bits (R6). -/
abbrev Byte := BitVec 8

/-- An address or the program counter: 16 bits (R6). -/
abbrev Word := BitVec 16

end Sys2Proof
end

