-- ==== Sys2Proof/Config.lean ====
section
/-! DEFINITION. The configuration parameters of R7: each one a point the source leaves open, taken as an argument.
The argument travels in a field of the machine's state that no step writes (log entry 1). -/

namespace Sys2Proof

/-- `TOP_POLICY` (R7, D1): a 16-bit read at 0xFFFF, and an operand byte above 0xFFFF. -/
inductive TopPolicy where
  /-- the access raises `OutOfRangeAccess(0xFFFF)` -/
  | fault
  /-- the address wraps to 0x0000 -/
  | wrap
  deriving DecidableEq, Repr

/-- `ZP_PTR_WRAP` (R7, D2): where the high byte of a zero-page pointer at 0x00FF is. -/
inductive ZpPtrWrap where
  /-- at 0x0000 -/
  | pageZero
  /-- at 0x0100 -/
  | linear
  deriving DecidableEq, Repr

/-- `BRANCH_BASE` (R7, D3): what a branch displacement is added to. -/
inductive BranchBase where
  /-- the address of the next instruction, pc0 + 2 -/
  | next
  /-- the address of the branch itself, pc0 -/
  | opcode
  deriving DecidableEq, Repr

/-- `BRANCH_OVERFLOW` (R7, D4): a taken branch whose target is outside 0x0000..0xFFFF. -/
inductive BranchOverflow where
  /-- the step raises `BranchOverflow` -/
  | fatal
  /-- the target is taken modulo 2^16 -/
  | wrap
  deriving DecidableEq, Repr

/-- The parameters of R7, all eight of them. -/
structure Config where
  topPolicy      : TopPolicy
  zpPtrWrap      : ZpPtrWrap
  branchBase     : BranchBase
  branchOverflow : BranchOverflow
  /-- `EXT_LOGIC`: AND, ORA, EOR and BIT are in the table -/
  extLogic       : Bool
  /-- `EXT_COMPARE`: CMP, CPX and CPY are in the table -/
  extCompare     : Bool
  /-- `EXT_BRANCH`: BEQ, BNE, BMI, BPL, BVC and BVS are in the table -/
  extBranch      : Bool
  /-- `BASE_OMIT`: opcode bytes of base rows that are removed from the table, read as a set -/
  baseOmit       : List Byte
  deriving DecidableEq, Repr

/-- The default of every parameter (the table of R7). -/
def Config.standard : Config where
  topPolicy := .fault
  zpPtrWrap := .pageZero
  branchBase := .next
  branchOverflow := .fatal
  extLogic := false
  extCompare := false
  extBranch := false
  baseOmit := []

end Sys2Proof
end

