-- ==== Sys2Proof/Syntax.lean ====
section
/-! DEFINITION. The abstract syntax: the mnemonics, the thirteen addressing modes, the operand forms, and `Instr`, one
constructor for each of the 130 rows of the instruction table (30_encoding.md R96, R100).
An operand is kept as the bytes hold it: nothing is scaled, shifted or extended here (R93). -/

namespace Sys2Proof

/-- The 41 mnemonics of the table (R95, R96, R100). -/
inductive Mnemonic where
  | adc | sbc | asl | lsr | rol | ror | bcc | bcs | jmp | lda | ldx | ldy | sta | stx | sty | tax | tay
  | txa | tya | clc | sec | cli | sei | cld | sed | clv | inx | brk | and | ora | eor | bit | cmp | cpx
  | cpy | bpl | bmi | bvc | bvs | bne | beq
  deriving DecidableEq, Repr

/-- The addressing-mode tags of R92. -/
inductive Mode where
  | noneAddressing | accumulator | immediate | zeroPage | zeroPageX | zeroPageY | absolute | absoluteX
  | absoluteY | indirect | indirectX | indirectY | relative
  deriving DecidableEq, Repr

/-- The optional groups of R270; `base` is the table of R96. -/
inductive Group where
  | base | logic | compare | branch
  deriving DecidableEq, Repr

/-- An operand form: an addressing mode with the operand that its bytes hold (R92, R93). -/
inductive Operand where
  | noneAddressing
  | accumulator
  | immediate (imm : Byte)
  | zeroPage (zp : Byte)
  | zeroPageX (zp : Byte)
  | zeroPageY (zp : Byte)
  | absolute (addr : Word)
  | absoluteX (addr : Word)
  | absoluteY (addr : Word)
  | indirect (ptr : Word)
  | indirectX (zp : Byte)
  | indirectY (zp : Byte)
  | relative (rel : Byte)
  deriving DecidableEq, Repr

/-- The instructions: one constructor for each row of the table, named by mnemonic and addressing mode. -/
inductive Instr where
  -- ADC, add with carry (R161)
  | adcImmediate (imm : Byte)
  | adcZeroPage (zp : Byte)
  | adcZeroPageX (zp : Byte)
  | adcAbsolute (addr : Word)
  | adcAbsoluteX (addr : Word)
  | adcAbsoluteY (addr : Word)
  | adcIndirectX (zp : Byte)
  | adcIndirectY (zp : Byte)
  -- SBC, subtract with carry (borrow) (R162)
  | sbcImmediate (imm : Byte)
  | sbcZeroPage (zp : Byte)
  | sbcZeroPageX (zp : Byte)
  | sbcAbsolute (addr : Word)
  | sbcAbsoluteX (addr : Word)
  | sbcAbsoluteY (addr : Word)
  | sbcIndirectX (zp : Byte)
  | sbcIndirectY (zp : Byte)
  -- ASL, arithmetic shift left (R181)
  | aslAccumulator
  | aslZeroPage (zp : Byte)
  | aslZeroPageX (zp : Byte)
  | aslAbsolute (addr : Word)
  | aslAbsoluteX (addr : Word)
  -- LSR, logical shift right (R182)
  | lsrAccumulator
  | lsrZeroPage (zp : Byte)
  | lsrZeroPageX (zp : Byte)
  | lsrAbsolute (addr : Word)
  | lsrAbsoluteX (addr : Word)
  -- ROL, rotate left through carry (R183)
  | rolAccumulator
  | rolZeroPage (zp : Byte)
  | rolZeroPageX (zp : Byte)
  | rolAbsolute (addr : Word)
  | rolAbsoluteX (addr : Word)
  -- ROR, rotate right through carry (R184)
  | rorAccumulator
  | rorZeroPage (zp : Byte)
  | rorZeroPageX (zp : Byte)
  | rorAbsolute (addr : Word)
  | rorAbsoluteX (addr : Word)
  -- BCC, branch if carry clear (R200)
  | bcc (rel : Byte)
  -- BCS, branch if carry set (R201)
  | bcs (rel : Byte)
  -- JMP, jump (R205)
  | jmpAbsolute (addr : Word)
  | jmpIndirect (ptr : Word)
  -- LDA, load A (R220)
  | ldaImmediate (imm : Byte)
  | ldaZeroPage (zp : Byte)
  | ldaZeroPageX (zp : Byte)
  | ldaAbsolute (addr : Word)
  | ldaAbsoluteX (addr : Word)
  | ldaAbsoluteY (addr : Word)
  | ldaIndirectX (zp : Byte)
  | ldaIndirectY (zp : Byte)
  -- LDX, load X (R221)
  | ldxImmediate (imm : Byte)
  | ldxZeroPage (zp : Byte)
  | ldxZeroPageY (zp : Byte)
  | ldxAbsolute (addr : Word)
  | ldxAbsoluteY (addr : Word)
  -- LDY, load Y (R222)
  | ldyImmediate (imm : Byte)
  | ldyZeroPage (zp : Byte)
  | ldyZeroPageX (zp : Byte)
  | ldyAbsolute (addr : Word)
  | ldyAbsoluteX (addr : Word)
  -- STA, store A (R223)
  | staZeroPage (zp : Byte)
  | staZeroPageX (zp : Byte)
  | staAbsolute (addr : Word)
  | staAbsoluteX (addr : Word)
  | staAbsoluteY (addr : Word)
  | staIndirectX (zp : Byte)
  | staIndirectY (zp : Byte)
  -- STX, store X (R224)
  | stxZeroPage (zp : Byte)
  | stxZeroPageY (zp : Byte)
  | stxAbsolute (addr : Word)
  -- STY, store Y (R225)
  | styZeroPage (zp : Byte)
  | styZeroPageX (zp : Byte)
  | styAbsolute (addr : Word)
  -- TAX, A to X (R226)
  | tax
  -- TAY, A to Y (R227)
  | tay
  -- TXA, X to A (R228)
  | txa
  -- TYA, Y to A (R229)
  | tya
  -- CLC, clear carry (R250)
  | clc
  -- SEC, set carry (R251)
  | sec
  -- CLI, clear interrupt-disable (R252)
  | cli
  -- SEI, set interrupt-disable (R253)
  | sei
  -- CLD, clear decimal (R254)
  | cld
  -- SED, set decimal (R255)
  | sed
  -- CLV, clear overflow (R256)
  | clv
  -- INX, increment X (R257)
  | inx
  -- BRK, break, the halt instruction (R258)
  | brk
  -- AND, bitwise AND with A (R271)
  | andImmediate (imm : Byte)
  | andZeroPage (zp : Byte)
  | andZeroPageX (zp : Byte)
  | andAbsolute (addr : Word)
  | andAbsoluteX (addr : Word)
  | andAbsoluteY (addr : Word)
  | andIndirectX (zp : Byte)
  | andIndirectY (zp : Byte)
  -- ORA, bitwise OR with A (R272)
  | oraImmediate (imm : Byte)
  | oraZeroPage (zp : Byte)
  | oraZeroPageX (zp : Byte)
  | oraAbsolute (addr : Word)
  | oraAbsoluteX (addr : Word)
  | oraAbsoluteY (addr : Word)
  | oraIndirectX (zp : Byte)
  | oraIndirectY (zp : Byte)
  -- EOR, bitwise exclusive OR with A (R273)
  | eorImmediate (imm : Byte)
  | eorZeroPage (zp : Byte)
  | eorZeroPageX (zp : Byte)
  | eorAbsolute (addr : Word)
  | eorAbsoluteX (addr : Word)
  | eorAbsoluteY (addr : Word)
  | eorIndirectX (zp : Byte)
  | eorIndirectY (zp : Byte)
  -- BIT, test bits (R274)
  | bitZeroPage (zp : Byte)
  | bitAbsolute (addr : Word)
  -- CMP, compare A (R275)
  | cmpImmediate (imm : Byte)
  | cmpZeroPage (zp : Byte)
  | cmpZeroPageX (zp : Byte)
  | cmpAbsolute (addr : Word)
  | cmpAbsoluteX (addr : Word)
  | cmpAbsoluteY (addr : Word)
  | cmpIndirectX (zp : Byte)
  | cmpIndirectY (zp : Byte)
  -- CPX, compare X (R276)
  | cpxImmediate (imm : Byte)
  | cpxZeroPage (zp : Byte)
  | cpxAbsolute (addr : Word)
  -- CPY, compare Y (R277)
  | cpyImmediate (imm : Byte)
  | cpyZeroPage (zp : Byte)
  | cpyAbsolute (addr : Word)
  -- BPL, branch if plus (R278)
  | bpl (rel : Byte)
  -- BMI, branch if minus (R279)
  | bmi (rel : Byte)
  -- BVC, branch if overflow clear (R280)
  | bvc (rel : Byte)
  -- BVS, branch if overflow set (R281)
  | bvs (rel : Byte)
  -- BNE, branch if not equal (R282)
  | bne (rel : Byte)
  -- BEQ, branch if equal (R283)
  | beq (rel : Byte)
  deriving DecidableEq, Repr

end Sys2Proof
end

