-- ==== Sys2Proof/Decode.lean ====
section
/-! DEFINITION. The instruction table (R91, R96, R100), the decoder, total on any bytes and rejecting by name, and after
it the encoder, with the byte-order helpers both use (R67, R93). -/

namespace Sys2Proof

/-- An entry of the instruction table (R91): "opcode byte, mnemonic, instruction length in bytes (1–3), base cycle count,
addressing mode tag", with the group that decides its presence (R270).
The length is the mode's (`Mode.length`, R92). The cycle count is informative and nothing reads it (R375). -/
structure Row where
  opcode   : Byte
  mnemonic : Mnemonic
  mode     : Mode
  cycles   : Nat
  group    : Group
  deriving DecidableEq, Repr


/-- The base table of R96, opcodes 0x00 to 0x5F. -/
def baseRows0 : List Row := [
  ⟨0x00, .brk, .noneAddressing, 7, .base⟩,
  ⟨0x06, .asl, .zeroPage, 5, .base⟩,
  ⟨0x0A, .asl, .accumulator, 2, .base⟩,
  ⟨0x0E, .asl, .absolute, 6, .base⟩,
  ⟨0x16, .asl, .zeroPageX, 6, .base⟩,
  ⟨0x18, .clc, .noneAddressing, 2, .base⟩,
  ⟨0x1E, .asl, .absoluteX, 7, .base⟩,
  ⟨0x26, .rol, .zeroPage, 5, .base⟩,
  ⟨0x2A, .rol, .accumulator, 2, .base⟩,
  ⟨0x2E, .rol, .absolute, 6, .base⟩,
  ⟨0x36, .rol, .zeroPageX, 6, .base⟩,
  ⟨0x38, .sec, .noneAddressing, 2, .base⟩,
  ⟨0x3E, .rol, .absoluteX, 7, .base⟩,
  ⟨0x46, .lsr, .zeroPage, 5, .base⟩,
  ⟨0x4A, .lsr, .accumulator, 2, .base⟩,
  ⟨0x4C, .jmp, .absolute, 3, .base⟩,
  ⟨0x4E, .lsr, .absolute, 6, .base⟩,
  ⟨0x56, .lsr, .zeroPageX, 6, .base⟩,
  ⟨0x58, .cli, .noneAddressing, 2, .base⟩,
  ⟨0x5E, .lsr, .absoluteX, 7, .base⟩]

/-- The base table of R96, opcodes 0x60 to 0x8F. -/
def baseRows1 : List Row := [
  ⟨0x61, .adc, .indirectX, 6, .base⟩,
  ⟨0x65, .adc, .zeroPage, 3, .base⟩,
  ⟨0x66, .ror, .zeroPage, 5, .base⟩,
  ⟨0x69, .adc, .immediate, 2, .base⟩,
  ⟨0x6A, .ror, .accumulator, 2, .base⟩,
  ⟨0x6C, .jmp, .indirect, 5, .base⟩,
  ⟨0x6D, .adc, .absolute, 4, .base⟩,
  ⟨0x6E, .ror, .absolute, 6, .base⟩,
  ⟨0x71, .adc, .indirectY, 5, .base⟩,
  ⟨0x75, .adc, .zeroPageX, 4, .base⟩,
  ⟨0x76, .ror, .zeroPageX, 6, .base⟩,
  ⟨0x78, .sei, .noneAddressing, 2, .base⟩,
  ⟨0x79, .adc, .absoluteY, 4, .base⟩,
  ⟨0x7D, .adc, .absoluteX, 4, .base⟩,
  ⟨0x7E, .ror, .absoluteX, 7, .base⟩,
  ⟨0x81, .sta, .indirectX, 6, .base⟩,
  ⟨0x84, .sty, .zeroPage, 3, .base⟩,
  ⟨0x85, .sta, .zeroPage, 3, .base⟩,
  ⟨0x86, .stx, .zeroPage, 3, .base⟩,
  ⟨0x8A, .txa, .noneAddressing, 2, .base⟩,
  ⟨0x8C, .sty, .absolute, 4, .base⟩,
  ⟨0x8D, .sta, .absolute, 4, .base⟩,
  ⟨0x8E, .stx, .absolute, 4, .base⟩]

/-- The base table of R96, opcodes 0x90 to 0xAF. -/
def baseRows2 : List Row := [
  ⟨0x90, .bcc, .relative, 2, .base⟩,
  ⟨0x91, .sta, .indirectY, 6, .base⟩,
  ⟨0x94, .sty, .zeroPageX, 4, .base⟩,
  ⟨0x95, .sta, .zeroPageX, 4, .base⟩,
  ⟨0x96, .stx, .zeroPageY, 4, .base⟩,
  ⟨0x98, .tya, .noneAddressing, 2, .base⟩,
  ⟨0x99, .sta, .absoluteY, 5, .base⟩,
  ⟨0x9D, .sta, .absoluteX, 5, .base⟩,
  ⟨0xA0, .ldy, .immediate, 2, .base⟩,
  ⟨0xA1, .lda, .indirectX, 6, .base⟩,
  ⟨0xA2, .ldx, .immediate, 2, .base⟩,
  ⟨0xA4, .ldy, .zeroPage, 3, .base⟩,
  ⟨0xA5, .lda, .zeroPage, 3, .base⟩,
  ⟨0xA6, .ldx, .zeroPage, 3, .base⟩,
  ⟨0xA8, .tay, .noneAddressing, 2, .base⟩,
  ⟨0xA9, .lda, .immediate, 2, .base⟩,
  ⟨0xAA, .tax, .noneAddressing, 2, .base⟩,
  ⟨0xAC, .ldy, .absolute, 4, .base⟩,
  ⟨0xAD, .lda, .absolute, 4, .base⟩,
  ⟨0xAE, .ldx, .absolute, 4, .base⟩]

/-- The base table of R96, opcodes 0xB0 to 0xFF. -/
def baseRows3 : List Row := [
  ⟨0xB0, .bcs, .relative, 2, .base⟩,
  ⟨0xB1, .lda, .indirectY, 5, .base⟩,
  ⟨0xB4, .ldy, .zeroPageX, 4, .base⟩,
  ⟨0xB5, .lda, .zeroPageX, 4, .base⟩,
  ⟨0xB6, .ldx, .zeroPageY, 4, .base⟩,
  ⟨0xB8, .clv, .noneAddressing, 2, .base⟩,
  ⟨0xB9, .lda, .absoluteY, 4, .base⟩,
  ⟨0xBC, .ldy, .absoluteX, 4, .base⟩,
  ⟨0xBD, .lda, .absoluteX, 4, .base⟩,
  ⟨0xBE, .ldx, .absoluteY, 4, .base⟩,
  ⟨0xD8, .cld, .noneAddressing, 2, .base⟩,
  ⟨0xE1, .sbc, .indirectX, 6, .base⟩,
  ⟨0xE5, .sbc, .zeroPage, 3, .base⟩,
  ⟨0xE8, .inx, .noneAddressing, 2, .base⟩,
  ⟨0xE9, .sbc, .immediate, 2, .base⟩,
  ⟨0xED, .sbc, .absolute, 4, .base⟩,
  ⟨0xF1, .sbc, .indirectY, 5, .base⟩,
  ⟨0xF5, .sbc, .zeroPageX, 4, .base⟩,
  ⟨0xF8, .sed, .noneAddressing, 2, .base⟩,
  ⟨0xF9, .sbc, .absoluteY, 4, .base⟩,
  ⟨0xFD, .sbc, .absoluteX, 4, .base⟩]

/-- The rows of EXT_LOGIC (R100). -/
def logicRows : List Row := [
  ⟨0x01, .ora, .indirectX, 6, .logic⟩,
  ⟨0x05, .ora, .zeroPage, 3, .logic⟩,
  ⟨0x09, .ora, .immediate, 2, .logic⟩,
  ⟨0x0D, .ora, .absolute, 4, .logic⟩,
  ⟨0x11, .ora, .indirectY, 5, .logic⟩,
  ⟨0x15, .ora, .zeroPageX, 4, .logic⟩,
  ⟨0x19, .ora, .absoluteY, 4, .logic⟩,
  ⟨0x1D, .ora, .absoluteX, 4, .logic⟩,
  ⟨0x21, .and, .indirectX, 6, .logic⟩,
  ⟨0x24, .bit, .zeroPage, 3, .logic⟩,
  ⟨0x25, .and, .zeroPage, 3, .logic⟩,
  ⟨0x29, .and, .immediate, 2, .logic⟩,
  ⟨0x2C, .bit, .absolute, 4, .logic⟩,
  ⟨0x2D, .and, .absolute, 4, .logic⟩,
  ⟨0x31, .and, .indirectY, 5, .logic⟩,
  ⟨0x35, .and, .zeroPageX, 4, .logic⟩,
  ⟨0x39, .and, .absoluteY, 4, .logic⟩,
  ⟨0x3D, .and, .absoluteX, 4, .logic⟩,
  ⟨0x41, .eor, .indirectX, 6, .logic⟩,
  ⟨0x45, .eor, .zeroPage, 3, .logic⟩,
  ⟨0x49, .eor, .immediate, 2, .logic⟩,
  ⟨0x4D, .eor, .absolute, 4, .logic⟩,
  ⟨0x51, .eor, .indirectY, 5, .logic⟩,
  ⟨0x55, .eor, .zeroPageX, 4, .logic⟩,
  ⟨0x59, .eor, .absoluteY, 4, .logic⟩,
  ⟨0x5D, .eor, .absoluteX, 4, .logic⟩]

/-- The rows of EXT_COMPARE (R100). -/
def compareRows : List Row := [
  ⟨0xC0, .cpy, .immediate, 2, .compare⟩,
  ⟨0xC1, .cmp, .indirectX, 6, .compare⟩,
  ⟨0xC4, .cpy, .zeroPage, 3, .compare⟩,
  ⟨0xC5, .cmp, .zeroPage, 3, .compare⟩,
  ⟨0xC9, .cmp, .immediate, 2, .compare⟩,
  ⟨0xCC, .cpy, .absolute, 4, .compare⟩,
  ⟨0xCD, .cmp, .absolute, 4, .compare⟩,
  ⟨0xD1, .cmp, .indirectY, 5, .compare⟩,
  ⟨0xD5, .cmp, .zeroPageX, 4, .compare⟩,
  ⟨0xD9, .cmp, .absoluteY, 4, .compare⟩,
  ⟨0xDD, .cmp, .absoluteX, 4, .compare⟩,
  ⟨0xE0, .cpx, .immediate, 2, .compare⟩,
  ⟨0xE4, .cpx, .zeroPage, 3, .compare⟩,
  ⟨0xEC, .cpx, .absolute, 4, .compare⟩]

/-- The rows of EXT_BRANCH (R100). -/
def branchRows : List Row := [
  ⟨0x10, .bpl, .relative, 2, .branch⟩,
  ⟨0x30, .bmi, .relative, 2, .branch⟩,
  ⟨0x50, .bvc, .relative, 2, .branch⟩,
  ⟨0x70, .bvs, .relative, 2, .branch⟩,
  ⟨0xD0, .bne, .relative, 2, .branch⟩,
  ⟨0xF0, .beq, .relative, 2, .branch⟩]

/-- The whole instruction table: 84 + 26 + 14 + 6 = 130 rows (R101). -/
def rows : List Row :=
  baseRows0 ++ baseRows1 ++ baseRows2 ++ baseRows3 ++ logicRows ++ compareRows ++ branchRows

/-- The row of an opcode byte in the whole table: the full byte is matched, mask 0xFF (R94, R96). -/
def tableRow (op : Byte) : Option Row := rows.find? fun r => r.opcode == op

/-- Whether a configuration's table holds a row (R7, R96, R100): a base row unless `BASE_OMIT` names it, a row of an
optional group if its parameter is true. -/
def Config.holds (cfg : Config) (r : Row) : Bool :=
  match r.group with
  | .base => !cfg.baseOmit.contains r.opcode
  | .logic => cfg.extLogic
  | .compare => cfg.extCompare
  | .branch => cfg.extBranch

/-- The instruction table `T` of a configuration (R12, R42): the entry of an opcode byte, if it has one. -/
def Config.entry (cfg : Config) (op : Byte) : Option Row := (tableRow op).filter cfg.holds

/-- The configuration with one opcode's row put into the table and every other parameter kept (log entry 3). -/
def Config.withOpcode (cfg : Config) (op : Byte) : Config :=
  match tableRow op with
  | none => cfg
  | some r =>
    match r.group with
    | .base => { cfg with baseOmit := cfg.baseOmit.filter (· != op) }
    | .logic => { cfg with extLogic := true }
    | .compare => { cfg with extCompare := true }
    | .branch => { cfg with extBranch := true }

/-- How many operand bytes a mode has (R92). -/
def Mode.operandBytes : Mode → Nat
  | .noneAddressing | .accumulator => 0
  | .immediate | .zeroPage | .zeroPageX | .zeroPageY | .indirectX | .indirectY | .relative => 1
  | .absolute | .absoluteX | .absoluteY | .indirect => 2

/-- The length of an instruction of this mode in bytes (R92). -/
def Mode.length (m : Mode) : Nat := 1 + m.operandBytes

/-- The length column of R91. -/
def Row.length (r : Row) : Nat := r.mode.length

/-- A 16-bit word from its low and its high byte: `lo | (hi << 8)` (R8, R67). -/
def leWord (lo hi : Byte) : Word := hi ++ lo

/-- `v[7:0]` of a word (R8). -/
def lowByte (w : Word) : Byte := w.extractLsb' 0 8

/-- `v[15:8]` of a word (R8). -/
def highByte (w : Word) : Byte := w.extractLsb' 8 8

/-- `zext_16`: a byte as an address in page zero (R9). -/
def zext16 (b : Byte) : Word := b.setWidth 16

/-- The operand of a mode, from the bytes after the opcode, low byte first (R93), with the bytes left over. -/
def Mode.takeOperand : Mode → List Byte → Option (Operand × List Byte)
  | .noneAddressing, bs => some (.noneAddressing, bs)
  | .accumulator, bs => some (.accumulator, bs)
  | .immediate, b1 :: bs => some (.immediate b1, bs)
  | .zeroPage, b1 :: bs => some (.zeroPage b1, bs)
  | .zeroPageX, b1 :: bs => some (.zeroPageX b1, bs)
  | .zeroPageY, b1 :: bs => some (.zeroPageY b1, bs)
  | .absolute, b1 :: b2 :: bs => some (.absolute (leWord b1 b2), bs)
  | .absoluteX, b1 :: b2 :: bs => some (.absoluteX (leWord b1 b2), bs)
  | .absoluteY, b1 :: b2 :: bs => some (.absoluteY (leWord b1 b2), bs)
  | .indirect, b1 :: b2 :: bs => some (.indirect (leWord b1 b2), bs)
  | .indirectX, b1 :: bs => some (.indirectX b1, bs)
  | .indirectY, b1 :: bs => some (.indirectY b1, bs)
  | .relative, b1 :: bs => some (.relative b1, bs)
  | _, _ => none


/-- The handler's form that an entry and its operand select (R91, R102): `none` where the table has no such row. -/
def assemble (m : Mnemonic) (o : Operand) : Option Instr :=
  match m with
  | .adc =>
    match o with
    | .immediate imm => some (.adcImmediate imm)
    | .zeroPage zp => some (.adcZeroPage zp)
    | .zeroPageX zp => some (.adcZeroPageX zp)
    | .absolute addr => some (.adcAbsolute addr)
    | .absoluteX addr => some (.adcAbsoluteX addr)
    | .absoluteY addr => some (.adcAbsoluteY addr)
    | .indirectX zp => some (.adcIndirectX zp)
    | .indirectY zp => some (.adcIndirectY zp)
    | _ => none
  | .sbc =>
    match o with
    | .immediate imm => some (.sbcImmediate imm)
    | .zeroPage zp => some (.sbcZeroPage zp)
    | .zeroPageX zp => some (.sbcZeroPageX zp)
    | .absolute addr => some (.sbcAbsolute addr)
    | .absoluteX addr => some (.sbcAbsoluteX addr)
    | .absoluteY addr => some (.sbcAbsoluteY addr)
    | .indirectX zp => some (.sbcIndirectX zp)
    | .indirectY zp => some (.sbcIndirectY zp)
    | _ => none
  | .asl =>
    match o with
    | .accumulator => some .aslAccumulator
    | .zeroPage zp => some (.aslZeroPage zp)
    | .zeroPageX zp => some (.aslZeroPageX zp)
    | .absolute addr => some (.aslAbsolute addr)
    | .absoluteX addr => some (.aslAbsoluteX addr)
    | _ => none
  | .lsr =>
    match o with
    | .accumulator => some .lsrAccumulator
    | .zeroPage zp => some (.lsrZeroPage zp)
    | .zeroPageX zp => some (.lsrZeroPageX zp)
    | .absolute addr => some (.lsrAbsolute addr)
    | .absoluteX addr => some (.lsrAbsoluteX addr)
    | _ => none
  | .rol =>
    match o with
    | .accumulator => some .rolAccumulator
    | .zeroPage zp => some (.rolZeroPage zp)
    | .zeroPageX zp => some (.rolZeroPageX zp)
    | .absolute addr => some (.rolAbsolute addr)
    | .absoluteX addr => some (.rolAbsoluteX addr)
    | _ => none
  | .ror =>
    match o with
    | .accumulator => some .rorAccumulator
    | .zeroPage zp => some (.rorZeroPage zp)
    | .zeroPageX zp => some (.rorZeroPageX zp)
    | .absolute addr => some (.rorAbsolute addr)
    | .absoluteX addr => some (.rorAbsoluteX addr)
    | _ => none
  | .bcc =>
    match o with
    | .relative rel => some (.bcc rel)
    | _ => none
  | .bcs =>
    match o with
    | .relative rel => some (.bcs rel)
    | _ => none
  | .jmp =>
    match o with
    | .absolute addr => some (.jmpAbsolute addr)
    | .indirect ptr => some (.jmpIndirect ptr)
    | _ => none
  | .lda =>
    match o with
    | .immediate imm => some (.ldaImmediate imm)
    | .zeroPage zp => some (.ldaZeroPage zp)
    | .zeroPageX zp => some (.ldaZeroPageX zp)
    | .absolute addr => some (.ldaAbsolute addr)
    | .absoluteX addr => some (.ldaAbsoluteX addr)
    | .absoluteY addr => some (.ldaAbsoluteY addr)
    | .indirectX zp => some (.ldaIndirectX zp)
    | .indirectY zp => some (.ldaIndirectY zp)
    | _ => none
  | .ldx =>
    match o with
    | .immediate imm => some (.ldxImmediate imm)
    | .zeroPage zp => some (.ldxZeroPage zp)
    | .zeroPageY zp => some (.ldxZeroPageY zp)
    | .absolute addr => some (.ldxAbsolute addr)
    | .absoluteY addr => some (.ldxAbsoluteY addr)
    | _ => none
  | .ldy =>
    match o with
    | .immediate imm => some (.ldyImmediate imm)
    | .zeroPage zp => some (.ldyZeroPage zp)
    | .zeroPageX zp => some (.ldyZeroPageX zp)
    | .absolute addr => some (.ldyAbsolute addr)
    | .absoluteX addr => some (.ldyAbsoluteX addr)
    | _ => none
  | .sta =>
    match o with
    | .zeroPage zp => some (.staZeroPage zp)
    | .zeroPageX zp => some (.staZeroPageX zp)
    | .absolute addr => some (.staAbsolute addr)
    | .absoluteX addr => some (.staAbsoluteX addr)
    | .absoluteY addr => some (.staAbsoluteY addr)
    | .indirectX zp => some (.staIndirectX zp)
    | .indirectY zp => some (.staIndirectY zp)
    | _ => none
  | .stx =>
    match o with
    | .zeroPage zp => some (.stxZeroPage zp)
    | .zeroPageY zp => some (.stxZeroPageY zp)
    | .absolute addr => some (.stxAbsolute addr)
    | _ => none
  | .sty =>
    match o with
    | .zeroPage zp => some (.styZeroPage zp)
    | .zeroPageX zp => some (.styZeroPageX zp)
    | .absolute addr => some (.styAbsolute addr)
    | _ => none
  | .tax =>
    match o with
    | .noneAddressing => some .tax
    | _ => none
  | .tay =>
    match o with
    | .noneAddressing => some .tay
    | _ => none
  | .txa =>
    match o with
    | .noneAddressing => some .txa
    | _ => none
  | .tya =>
    match o with
    | .noneAddressing => some .tya
    | _ => none
  | .clc =>
    match o with
    | .noneAddressing => some .clc
    | _ => none
  | .sec =>
    match o with
    | .noneAddressing => some .sec
    | _ => none
  | .cli =>
    match o with
    | .noneAddressing => some .cli
    | _ => none
  | .sei =>
    match o with
    | .noneAddressing => some .sei
    | _ => none
  | .cld =>
    match o with
    | .noneAddressing => some .cld
    | _ => none
  | .sed =>
    match o with
    | .noneAddressing => some .sed
    | _ => none
  | .clv =>
    match o with
    | .noneAddressing => some .clv
    | _ => none
  | .inx =>
    match o with
    | .noneAddressing => some .inx
    | _ => none
  | .brk =>
    match o with
    | .noneAddressing => some .brk
    | _ => none
  | .and =>
    match o with
    | .immediate imm => some (.andImmediate imm)
    | .zeroPage zp => some (.andZeroPage zp)
    | .zeroPageX zp => some (.andZeroPageX zp)
    | .absolute addr => some (.andAbsolute addr)
    | .absoluteX addr => some (.andAbsoluteX addr)
    | .absoluteY addr => some (.andAbsoluteY addr)
    | .indirectX zp => some (.andIndirectX zp)
    | .indirectY zp => some (.andIndirectY zp)
    | _ => none
  | .ora =>
    match o with
    | .immediate imm => some (.oraImmediate imm)
    | .zeroPage zp => some (.oraZeroPage zp)
    | .zeroPageX zp => some (.oraZeroPageX zp)
    | .absolute addr => some (.oraAbsolute addr)
    | .absoluteX addr => some (.oraAbsoluteX addr)
    | .absoluteY addr => some (.oraAbsoluteY addr)
    | .indirectX zp => some (.oraIndirectX zp)
    | .indirectY zp => some (.oraIndirectY zp)
    | _ => none
  | .eor =>
    match o with
    | .immediate imm => some (.eorImmediate imm)
    | .zeroPage zp => some (.eorZeroPage zp)
    | .zeroPageX zp => some (.eorZeroPageX zp)
    | .absolute addr => some (.eorAbsolute addr)
    | .absoluteX addr => some (.eorAbsoluteX addr)
    | .absoluteY addr => some (.eorAbsoluteY addr)
    | .indirectX zp => some (.eorIndirectX zp)
    | .indirectY zp => some (.eorIndirectY zp)
    | _ => none
  | .bit =>
    match o with
    | .zeroPage zp => some (.bitZeroPage zp)
    | .absolute addr => some (.bitAbsolute addr)
    | _ => none
  | .cmp =>
    match o with
    | .immediate imm => some (.cmpImmediate imm)
    | .zeroPage zp => some (.cmpZeroPage zp)
    | .zeroPageX zp => some (.cmpZeroPageX zp)
    | .absolute addr => some (.cmpAbsolute addr)
    | .absoluteX addr => some (.cmpAbsoluteX addr)
    | .absoluteY addr => some (.cmpAbsoluteY addr)
    | .indirectX zp => some (.cmpIndirectX zp)
    | .indirectY zp => some (.cmpIndirectY zp)
    | _ => none
  | .cpx =>
    match o with
    | .immediate imm => some (.cpxImmediate imm)
    | .zeroPage zp => some (.cpxZeroPage zp)
    | .absolute addr => some (.cpxAbsolute addr)
    | _ => none
  | .cpy =>
    match o with
    | .immediate imm => some (.cpyImmediate imm)
    | .zeroPage zp => some (.cpyZeroPage zp)
    | .absolute addr => some (.cpyAbsolute addr)
    | _ => none
  | .bpl =>
    match o with
    | .relative rel => some (.bpl rel)
    | _ => none
  | .bmi =>
    match o with
    | .relative rel => some (.bmi rel)
    | _ => none
  | .bvc =>
    match o with
    | .relative rel => some (.bvc rel)
    | _ => none
  | .bvs =>
    match o with
    | .relative rel => some (.bvs rel)
    | _ => none
  | .bne =>
    match o with
    | .relative rel => some (.bne rel)
    | _ => none
  | .beq =>
    match o with
    | .relative rel => some (.beq rel)
    | _ => none

/-- Why bytes are no instruction. -/
inductive DecodeError where
  /-- there is no opcode byte -/
  | noBytes
  /-- the opcode byte has no row in the table (R97) -/
  | noEntry (op : Byte)
  /-- the row's operand bytes are not all there -/
  | truncated (op : Byte)
  /-- the row's handler has no such form; no row of R96 or R100 gives this (R102) -/
  | noHandler (op : Byte)
  deriving DecidableEq, Repr

/-- The decoder: the opcode byte alone selects mnemonic, mode and length (R90), over the whole table of 130 rows.
Whether a configuration's table holds the row is asked at the fetch (`Config.entry`, R302). -/
def decode : List Byte → Except DecodeError (Instr × List Byte)
  | [] => .error .noBytes
  | op :: bs =>
    match tableRow op with
    | none => .error (.noEntry op)
    | some row =>
      match row.mode.takeOperand bs with
      | none => .error (.truncated op)
      | some (o, rest) =>
        match assemble row.mnemonic o with
        | none => .error (.noHandler op)
        | some i => .ok (i, rest)

/-! The encoder. -/

/-- The mode of an operand form (R92). -/
def Operand.mode : Operand → Mode
  | .noneAddressing => .noneAddressing
  | .accumulator => .accumulator
  | .immediate _ => .immediate
  | .zeroPage _ => .zeroPage
  | .zeroPageX _ => .zeroPageX
  | .zeroPageY _ => .zeroPageY
  | .absolute _ => .absolute
  | .absoluteX _ => .absoluteX
  | .absoluteY _ => .absoluteY
  | .indirect _ => .indirect
  | .indirectX _ => .indirectX
  | .indirectY _ => .indirectY
  | .relative _ => .relative

/-- The operand bytes, low byte first (R92, R93). -/
def Operand.bytes : Operand → List Byte
  | .noneAddressing | .accumulator => []
  | .immediate b | .zeroPage b | .zeroPageX b | .zeroPageY b | .indirectX b | .indirectY b | .relative b => [b]
  | .absolute w | .absoluteX w | .absoluteY w | .indirect w => [lowByte w, highByte w]


/-- The mnemonic of an instruction: whose handler runs it (R91, R304). -/
def Instr.mnemonic : Instr → Mnemonic
  | .adcImmediate _ | .adcZeroPage _ | .adcZeroPageX _ | .adcAbsolute _ | .adcAbsoluteX _ | .adcAbsoluteY _
  | .adcIndirectX _ | .adcIndirectY _ => .adc
  | .sbcImmediate _ | .sbcZeroPage _ | .sbcZeroPageX _ | .sbcAbsolute _ | .sbcAbsoluteX _ | .sbcAbsoluteY _
  | .sbcIndirectX _ | .sbcIndirectY _ => .sbc
  | .aslAccumulator | .aslZeroPage _ | .aslZeroPageX _ | .aslAbsolute _ | .aslAbsoluteX _ => .asl
  | .lsrAccumulator | .lsrZeroPage _ | .lsrZeroPageX _ | .lsrAbsolute _ | .lsrAbsoluteX _ => .lsr
  | .rolAccumulator | .rolZeroPage _ | .rolZeroPageX _ | .rolAbsolute _ | .rolAbsoluteX _ => .rol
  | .rorAccumulator | .rorZeroPage _ | .rorZeroPageX _ | .rorAbsolute _ | .rorAbsoluteX _ => .ror
  | .bcc _ => .bcc
  | .bcs _ => .bcs
  | .jmpAbsolute _ | .jmpIndirect _ => .jmp
  | .ldaImmediate _ | .ldaZeroPage _ | .ldaZeroPageX _ | .ldaAbsolute _ | .ldaAbsoluteX _ | .ldaAbsoluteY _
  | .ldaIndirectX _ | .ldaIndirectY _ => .lda
  | .ldxImmediate _ | .ldxZeroPage _ | .ldxZeroPageY _ | .ldxAbsolute _ | .ldxAbsoluteY _ => .ldx
  | .ldyImmediate _ | .ldyZeroPage _ | .ldyZeroPageX _ | .ldyAbsolute _ | .ldyAbsoluteX _ => .ldy
  | .staZeroPage _ | .staZeroPageX _ | .staAbsolute _ | .staAbsoluteX _ | .staAbsoluteY _ | .staIndirectX _
  | .staIndirectY _ => .sta
  | .stxZeroPage _ | .stxZeroPageY _ | .stxAbsolute _ => .stx
  | .styZeroPage _ | .styZeroPageX _ | .styAbsolute _ => .sty
  | .tax => .tax
  | .tay => .tay
  | .txa => .txa
  | .tya => .tya
  | .clc => .clc
  | .sec => .sec
  | .cli => .cli
  | .sei => .sei
  | .cld => .cld
  | .sed => .sed
  | .clv => .clv
  | .inx => .inx
  | .brk => .brk
  | .andImmediate _ | .andZeroPage _ | .andZeroPageX _ | .andAbsolute _ | .andAbsoluteX _ | .andAbsoluteY _
  | .andIndirectX _ | .andIndirectY _ => .and
  | .oraImmediate _ | .oraZeroPage _ | .oraZeroPageX _ | .oraAbsolute _ | .oraAbsoluteX _ | .oraAbsoluteY _
  | .oraIndirectX _ | .oraIndirectY _ => .ora
  | .eorImmediate _ | .eorZeroPage _ | .eorZeroPageX _ | .eorAbsolute _ | .eorAbsoluteX _ | .eorAbsoluteY _
  | .eorIndirectX _ | .eorIndirectY _ => .eor
  | .bitZeroPage _ | .bitAbsolute _ => .bit
  | .cmpImmediate _ | .cmpZeroPage _ | .cmpZeroPageX _ | .cmpAbsolute _ | .cmpAbsoluteX _ | .cmpAbsoluteY _
  | .cmpIndirectX _ | .cmpIndirectY _ => .cmp
  | .cpxImmediate _ | .cpxZeroPage _ | .cpxAbsolute _ => .cpx
  | .cpyImmediate _ | .cpyZeroPage _ | .cpyAbsolute _ => .cpy
  | .bpl _ => .bpl
  | .bmi _ => .bmi
  | .bvc _ => .bvc
  | .bvs _ => .bvs
  | .bne _ => .bne
  | .beq _ => .beq

/-- The operand form of an instruction (R92). -/
def Instr.operand : Instr → Operand
  | .tax | .tay | .txa | .tya | .clc | .sec | .cli | .sei | .cld | .sed | .clv | .inx | .brk => .noneAddressing
  | .aslAccumulator | .lsrAccumulator | .rolAccumulator | .rorAccumulator => .accumulator
  | .adcImmediate imm | .sbcImmediate imm | .ldaImmediate imm | .ldxImmediate imm | .ldyImmediate imm
  | .andImmediate imm | .oraImmediate imm | .eorImmediate imm | .cmpImmediate imm | .cpxImmediate imm
  | .cpyImmediate imm => .immediate imm
  | .adcZeroPage zp | .sbcZeroPage zp | .aslZeroPage zp | .lsrZeroPage zp | .rolZeroPage zp | .rorZeroPage zp
  | .ldaZeroPage zp | .ldxZeroPage zp | .ldyZeroPage zp | .staZeroPage zp | .stxZeroPage zp | .styZeroPage zp
  | .andZeroPage zp | .oraZeroPage zp | .eorZeroPage zp | .bitZeroPage zp | .cmpZeroPage zp | .cpxZeroPage zp
  | .cpyZeroPage zp => .zeroPage zp
  | .adcZeroPageX zp | .sbcZeroPageX zp | .aslZeroPageX zp | .lsrZeroPageX zp | .rolZeroPageX zp
  | .rorZeroPageX zp | .ldaZeroPageX zp | .ldyZeroPageX zp | .staZeroPageX zp | .styZeroPageX zp
  | .andZeroPageX zp | .oraZeroPageX zp | .eorZeroPageX zp | .cmpZeroPageX zp => .zeroPageX zp
  | .ldxZeroPageY zp | .stxZeroPageY zp => .zeroPageY zp
  | .adcAbsolute addr | .sbcAbsolute addr | .aslAbsolute addr | .lsrAbsolute addr | .rolAbsolute addr
  | .rorAbsolute addr | .jmpAbsolute addr | .ldaAbsolute addr | .ldxAbsolute addr | .ldyAbsolute addr
  | .staAbsolute addr | .stxAbsolute addr | .styAbsolute addr | .andAbsolute addr | .oraAbsolute addr
  | .eorAbsolute addr | .bitAbsolute addr | .cmpAbsolute addr | .cpxAbsolute addr | .cpyAbsolute addr => .absolute addr
  | .adcAbsoluteX addr | .sbcAbsoluteX addr | .aslAbsoluteX addr | .lsrAbsoluteX addr | .rolAbsoluteX addr
  | .rorAbsoluteX addr | .ldaAbsoluteX addr | .ldyAbsoluteX addr | .staAbsoluteX addr | .andAbsoluteX addr
  | .oraAbsoluteX addr | .eorAbsoluteX addr | .cmpAbsoluteX addr => .absoluteX addr
  | .adcAbsoluteY addr | .sbcAbsoluteY addr | .ldaAbsoluteY addr | .ldxAbsoluteY addr | .staAbsoluteY addr
  | .andAbsoluteY addr | .oraAbsoluteY addr | .eorAbsoluteY addr | .cmpAbsoluteY addr => .absoluteY addr
  | .jmpIndirect ptr => .indirect ptr
  | .adcIndirectX zp | .sbcIndirectX zp | .ldaIndirectX zp | .staIndirectX zp | .andIndirectX zp
  | .oraIndirectX zp | .eorIndirectX zp | .cmpIndirectX zp => .indirectX zp
  | .adcIndirectY zp | .sbcIndirectY zp | .ldaIndirectY zp | .staIndirectY zp | .andIndirectY zp
  | .oraIndirectY zp | .eorIndirectY zp | .cmpIndirectY zp => .indirectY zp
  | .bcc rel | .bcs rel | .bpl rel | .bmi rel | .bvc rel | .bvs rel | .bne rel | .beq rel => .relative rel

/-- The opcode byte of an instruction, written out from the encoding line of its rule (R161 to R283). -/
def Instr.opcode : Instr → Byte
  | .adcImmediate _ => 0x69
  | .adcZeroPage _ => 0x65
  | .adcZeroPageX _ => 0x75
  | .adcAbsolute _ => 0x6D
  | .adcAbsoluteX _ => 0x7D
  | .adcAbsoluteY _ => 0x79
  | .adcIndirectX _ => 0x61
  | .adcIndirectY _ => 0x71
  | .sbcImmediate _ => 0xE9
  | .sbcZeroPage _ => 0xE5
  | .sbcZeroPageX _ => 0xF5
  | .sbcAbsolute _ => 0xED
  | .sbcAbsoluteX _ => 0xFD
  | .sbcAbsoluteY _ => 0xF9
  | .sbcIndirectX _ => 0xE1
  | .sbcIndirectY _ => 0xF1
  | .aslAccumulator => 0x0A
  | .aslZeroPage _ => 0x06
  | .aslZeroPageX _ => 0x16
  | .aslAbsolute _ => 0x0E
  | .aslAbsoluteX _ => 0x1E
  | .lsrAccumulator => 0x4A
  | .lsrZeroPage _ => 0x46
  | .lsrZeroPageX _ => 0x56
  | .lsrAbsolute _ => 0x4E
  | .lsrAbsoluteX _ => 0x5E
  | .rolAccumulator => 0x2A
  | .rolZeroPage _ => 0x26
  | .rolZeroPageX _ => 0x36
  | .rolAbsolute _ => 0x2E
  | .rolAbsoluteX _ => 0x3E
  | .rorAccumulator => 0x6A
  | .rorZeroPage _ => 0x66
  | .rorZeroPageX _ => 0x76
  | .rorAbsolute _ => 0x6E
  | .rorAbsoluteX _ => 0x7E
  | .bcc _ => 0x90
  | .bcs _ => 0xB0
  | .jmpAbsolute _ => 0x4C
  | .jmpIndirect _ => 0x6C
  | .ldaImmediate _ => 0xA9
  | .ldaZeroPage _ => 0xA5
  | .ldaZeroPageX _ => 0xB5
  | .ldaAbsolute _ => 0xAD
  | .ldaAbsoluteX _ => 0xBD
  | .ldaAbsoluteY _ => 0xB9
  | .ldaIndirectX _ => 0xA1
  | .ldaIndirectY _ => 0xB1
  | .ldxImmediate _ => 0xA2
  | .ldxZeroPage _ => 0xA6
  | .ldxZeroPageY _ => 0xB6
  | .ldxAbsolute _ => 0xAE
  | .ldxAbsoluteY _ => 0xBE
  | .ldyImmediate _ => 0xA0
  | .ldyZeroPage _ => 0xA4
  | .ldyZeroPageX _ => 0xB4
  | .ldyAbsolute _ => 0xAC
  | .ldyAbsoluteX _ => 0xBC
  | .staZeroPage _ => 0x85
  | .staZeroPageX _ => 0x95
  | .staAbsolute _ => 0x8D
  | .staAbsoluteX _ => 0x9D
  | .staAbsoluteY _ => 0x99
  | .staIndirectX _ => 0x81
  | .staIndirectY _ => 0x91
  | .stxZeroPage _ => 0x86
  | .stxZeroPageY _ => 0x96
  | .stxAbsolute _ => 0x8E
  | .styZeroPage _ => 0x84
  | .styZeroPageX _ => 0x94
  | .styAbsolute _ => 0x8C
  | .tax => 0xAA
  | .tay => 0xA8
  | .txa => 0x8A
  | .tya => 0x98
  | .clc => 0x18
  | .sec => 0x38
  | .cli => 0x58
  | .sei => 0x78
  | .cld => 0xD8
  | .sed => 0xF8
  | .clv => 0xB8
  | .inx => 0xE8
  | .brk => 0x00
  | .andImmediate _ => 0x29
  | .andZeroPage _ => 0x25
  | .andZeroPageX _ => 0x35
  | .andAbsolute _ => 0x2D
  | .andAbsoluteX _ => 0x3D
  | .andAbsoluteY _ => 0x39
  | .andIndirectX _ => 0x21
  | .andIndirectY _ => 0x31
  | .oraImmediate _ => 0x09
  | .oraZeroPage _ => 0x05
  | .oraZeroPageX _ => 0x15
  | .oraAbsolute _ => 0x0D
  | .oraAbsoluteX _ => 0x1D
  | .oraAbsoluteY _ => 0x19
  | .oraIndirectX _ => 0x01
  | .oraIndirectY _ => 0x11
  | .eorImmediate _ => 0x49
  | .eorZeroPage _ => 0x45
  | .eorZeroPageX _ => 0x55
  | .eorAbsolute _ => 0x4D
  | .eorAbsoluteX _ => 0x5D
  | .eorAbsoluteY _ => 0x59
  | .eorIndirectX _ => 0x41
  | .eorIndirectY _ => 0x51
  | .bitZeroPage _ => 0x24
  | .bitAbsolute _ => 0x2C
  | .cmpImmediate _ => 0xC9
  | .cmpZeroPage _ => 0xC5
  | .cmpZeroPageX _ => 0xD5
  | .cmpAbsolute _ => 0xCD
  | .cmpAbsoluteX _ => 0xDD
  | .cmpAbsoluteY _ => 0xD9
  | .cmpIndirectX _ => 0xC1
  | .cmpIndirectY _ => 0xD1
  | .cpxImmediate _ => 0xE0
  | .cpxZeroPage _ => 0xE4
  | .cpxAbsolute _ => 0xEC
  | .cpyImmediate _ => 0xC0
  | .cpyZeroPage _ => 0xC4
  | .cpyAbsolute _ => 0xCC
  | .bpl _ => 0x10
  | .bmi _ => 0x30
  | .bvc _ => 0x50
  | .bvs _ => 0x70
  | .bne _ => 0xD0
  | .beq _ => 0xF0

/-- The addressing mode of an instruction. -/
def Instr.mode (i : Instr) : Mode := i.operand.mode

/-- The length of an instruction in bytes, 1 to 3 (R90). -/
def Instr.length (i : Instr) : Nat := i.mode.length

/-- The bytes of an instruction: the opcode, then the operand bytes (R90, R92). -/
def encode (i : Instr) : List Byte := i.opcode :: i.operand.bytes

/-- The bytes of an instruction whose bits are `w`, numbered as `opcode_table.json` numbers them: bit 0 is the least
significant bit of the first byte, and a later byte's bits count on from it. Every bit above `nbits` is 0. The list has
the length of the longest instruction. -/
def tableBytes (nbits w : Nat) : List Byte :=
  let v := w % 2 ^ nbits
  [BitVec.ofNat 8 v, BitVec.ofNat 8 (v / 256), BitVec.ofNat 8 (v / 65536)]

/-- The instruction that the decoder reads from an instruction whose bits are `w`. -/
def decodeTableWord (nbits w : Nat) : Option Instr :=
  match decode (tableBytes nbits w) with
  | .ok (i, _) => some i
  | .error _ => none

end Sys2Proof
end

