-- ==== Sys2Proof/Machine/State.lean ====
section
/-! DEFINITION. The state of the core (R44), the reasons a run halts (R330), and the state after construction and after
reset (R41, R360). -/

namespace Sys2Proof.Machine

/-- The seven status flags (R35): exactly these, with no packed layout (D14). -/
structure Status where
  /-- carry -/
  c : Bool
  /-- zero result -/
  z : Bool
  /-- interrupt disable -/
  i : Bool
  /-- decimal mode -/
  d : Bool
  /-- break -/
  b : Bool
  /-- signed overflow -/
  v : Bool
  /-- negative, bit 7 -/
  n : Bool
  deriving DecidableEq, Repr

/-- The halt reasons: the closed enumeration of R330, with its payloads. A halt is a phase of the state, not an outcome of
its own: the step that raises one answers a next state (R306, R338, log entry 4). -/
inductive HaltReason where
  /-- `Break`: the normal end of a run (R258, R307) -/
  | brk
  /-- `UnimplementedOpcode`: the fetched byte has no table entry; the opcode and the PC at fetch time (R331) -/
  | unimplementedOpcode (op : Byte) (pc : Word)
  /-- `OutOfRangeAccess`: a 16-bit read or an operand address crosses 0xFFFF under `TOP_POLICY = Fault`; the address at
  which the access started (R332) -/
  | outOfRangeAccess (addr : Word)
  /-- `BranchOverflow`: a taken branch's target is outside the address space; the PC of the branch and the target (R333) -/
  | branchOverflow (pc : Word) (target : Int)
  /-- `InvalidAddressingModeUse`: an address was asked of a mode that has none; unreachable (R334) -/
  | invalidAddressingModeUse (op : Byte) (mode : Mode)
  deriving DecidableEq, Repr

/-- The engine phase (R40). `Fetching` and `Executing` are inside one step and are both `running`. -/
inductive Phase where
  /-- after construction and before the first reset -/
  | notStarted
  /-- after a reset, while instructions execute -/
  | running
  /-- terminal until the next reset -/
  | halted (r : HaltReason)
  deriving DecidableEq, Repr

/-- The memory (R60): a list of (address, byte) pairs in the canonical form of `Memory.wf`. -/
abbrev Memory := List Host.Cell

/-- The state of the machine: R44's list, and the configuration, which R44 makes an argument of the step and which no
step writes (log entry 1). -/
structure State where
  /-- the accumulator A (R31) -/
  a : Byte
  /-- the index register X (R32) -/
  x : Byte
  /-- the index register Y (R33) -/
  y : Byte
  /-- the program counter PC (R34) -/
  pc : Word
  /-- the status flags (R35) -/
  p : Status
  /-- the 64 KiB memory (R60) -/
  mem : Memory
  /-- the engine phase (R40) -/
  phase : Phase
  /-- the configuration parameters (R7) -/
  cfg : Config
  deriving DecidableEq, Repr

/-- The ways a step ends with no next state: there are none. Every condition that the spec calls an error inside a step
is a halt, which has a described post-state (R306, R338) and so is a next state; the halt reasons are `HaltReason`.
No constructor, so nobody raises one: safe, because no step of the spec ends without a state (log entry 4). -/
inductive Fault where
  deriving DecidableEq, Repr

/-- The calls that the core turns away. -/
inductive Refusal where
  /-- Raised by `exec` for an instruction that has no meaning yet; no arm of this model does. Safe. -/
  | notModelled (mnemonic : String)
  /-- Raised by `step` in the phase `notStarted`: the host stepped before the first `reset` (R301, I8). Safe. -/
  | hostProtocol
  deriving DecidableEq, Repr

/-- The outcome of an instruction or a step. -/
abbrev Answer := Host.Outcome State Fault Refusal

/-- All seven flags false (R41, R360). -/
def Status.clear : Status where
  c := false
  z := false
  i := false
  d := false
  b := false
  v := false
  n := false

/-- The freshly constructed, zero-initialised aggregate, for a configuration (R41). -/
def State.constructed (cfg : Config) : State where
  a := 0
  x := 0
  y := 0
  pc := 0
  p := Status.clear
  mem := []
  phase := .notStarted
  cfg := cfg

/-- The machine right after its first reset, with nothing loaded, in the default configuration (R360, R7): the reset
vector's two bytes are 0x00, so PC is 0x0000. -/
def State.reset : State :=
  { State.constructed Config.standard with phase := .running }

end Sys2Proof.Machine
end

