-- ==== Sys2Proof/Machine/Ops.lean ====
section
/-! DEFINITION. The named operations over memory and registers (20_memory.md, R10), the advance of the PC (R305), and
halting: a raise, which is this core's exception entry (R306, R338), and `restart`, the one way back (R339, R360). -/

namespace Sys2Proof.Machine

/-! Memory. -/

/-- What a byte that nothing has written reads as: 0x00 (R41, R75). -/
def Memory.unlisted : Byte := 0x00

/-- The byte at an address number. -/
def Memory.get : Memory → Nat → Byte
  | [], _ => Memory.unlisted
  | (k, v) :: m, a => if k = a then v else Memory.get m a

/-- `MemRead(addr, 1)` (R61): total, no side effect. -/
def Memory.read (m : Memory) (a : Word) : Byte := Memory.get m a.toNat

/-- Puts a pair in front of the first pair of a higher address. -/
def Memory.insert : Memory → Nat → Byte → Memory
  | [], a, v => [(a, v)]
  | (k, w) :: m, a, v => if a < k then (a, v) :: (k, w) :: m else (k, w) :: Memory.insert m a v

/-- `MemWrite(addr, 1, v)` (R62): the old pair goes; a new one comes unless `v` is what an unlisted byte reads as. -/
def Memory.write (m : Memory) (a : Word) (v : Byte) : Memory :=
  let rest := m.filter fun cell => cell.1 != a.toNat
  if v = Memory.unlisted then rest else Memory.insert rest a.toNat v

/-- The canonical form: addresses strictly rising and below 65536, no byte that an unlisted address reads as. Two
memories of this form that read alike are equal. -/
def Memory.wf (m : Memory) : Bool :=
  decide (m.Pairwise fun p q => p.1 < q.1) && m.all fun cell => decide (cell.1 < 65536) && cell.2 != Memory.unlisted

/-- Writes bytes at rising addresses, wrapping past 0xFFFF. -/
def Memory.writeBytes : Memory → Word → List Byte → Memory
  | m, _, [] => m
  | m, a, v :: vs => Memory.writeBytes (m.write a v) (a + 1) vs

/-- The errors of a direct memory call, returned to its caller as recoverable failures (R332, R335). -/
inductive MemoryError where
  /-- `OutOfRangeAccess`: the 16-bit access started here and crossed the top -/
  | outOfRangeAccess (addr : Word)
  /-- `RangeOverflow`: a bulk write would exceed the address space -/
  | rangeOverflow
  deriving DecidableEq, Repr

/-- Where the high byte of a 16-bit access at `a` is: `a + 1`, and at 0xFFFF what `TOP_POLICY` says (R63, R64). -/
def secondByte (pol : TopPolicy) (a : Word) : Except MemoryError Word :=
  if a = 0xFFFF then
    match pol with
    | .fault => .error (.outOfRangeAccess 0xFFFF)
    | .wrap => .ok 0x0000
  else .ok (a + 1)

/-- `MemRead16(a)` (R63), little-endian. -/
def Memory.read16 (pol : TopPolicy) (m : Memory) (a : Word) : Except MemoryError Word :=
  match secondByte pol a with
  | .error e => .error e
  | .ok b => .ok (leWord (m.read a) (m.read b))

/-- `write16(a, v)` (R64), little-endian, under the same boundary contract. -/
def Memory.write16 (pol : TopPolicy) (m : Memory) (a v : Word) : Except MemoryError Memory :=
  match secondByte pol a with
  | .error e => .error e
  | .ok b => .ok ((m.write a (lowByte v)).write b (highByte v))

/-- `write_range(start, bytes)` (R65): all of it or, if it would exceed the address space, nothing. -/
def Memory.writeRange (m : Memory) (start : Word) (bytes : List Byte) : Except MemoryError Memory :=
  if 0x10000 < start.toNat + bytes.length then .error .rangeOverflow else .ok (m.writeBytes start bytes)

/-! Registers (R10, R31–R34): every register and flag is plain, so each has one setter. -/

def State.setA (s : State) (v : Byte) : State := { s with a := v }
def State.setX (s : State) (v : Byte) : State := { s with x := v }
def State.setY (s : State) (v : Byte) : State := { s with y := v }
def State.setPc (s : State) (w : Word) : State := { s with pc := w }
def State.setP (s : State) (p : Status) : State := { s with p := p }
def State.setPhase (s : State) (ph : Phase) : State := { s with phase := ph }

/-- A store of one byte (R62). -/
def State.store (s : State) (a : Word) (v : Byte) : State := { s with mem := s.mem.write a v }

/-! Halting. -/

/-- A raise (R306, R338): the phase records the reason; A, X, Y, the flags, memory and PC keep their values from before
the step. Applied to the state before the step, so the step's writes are discarded. -/
def State.raise (s : State) (r : HaltReason) : State := s.setPhase (.halted r)

/-- `reset()` (R360), the only way out of a halt (R339): registers and flags zeroed, PC from the vector at
0xFFFC/0xFFFD, memory untouched. -/
def State.restart (s : State) : State where
  a := 0
  x := 0
  y := 0
  pc := leWord (s.mem.read 0xFFFC) (s.mem.read 0xFFFD)
  p := Status.clear
  mem := s.mem
  phase := .running
  cfg := s.cfg

/-- What a step reports (R308): the halt reason, or nothing for `Continue`. -/
def State.haltReason (s : State) : Option HaltReason :=
  match s.phase with
  | .halted r => some r
  | .notStarted | .running => none

/-! The engine's frame around a handler. -/

/-- The advance decision (R305): if the handler left PC at its value, PC moves past the instruction, modulo 2^16.
The test compares values, so a jump to its own address advances too (R204, R207, C2). -/
def State.advance (s : State) (len : Nat) (s' : State) : State :=
  if s'.pc = s.pc then s'.setPc (s.pc + BitVec.ofNat 16 len) else s'

/-- The end of an instruction of `len` bytes at `s`, from what its handler did: a raise discards everything the handler
did (R306), otherwise the advance decision follows (R305). -/
def complete (s : State) (len : Nat) : Except HaltReason State → Answer
  | .error r => .next (s.raise r)
  | .ok s' => .next (s.advance len s')

end Sys2Proof.Machine
end

