-- ==== Sys2Proof/Machine/Flags.lean ====
section
/-! DEFINITION. The flag computations: `SetNZ` (R160), the adder of ADC and SBC (R161, R162), `Compare` (R275), BIT (R274)
and the shifters with their carries (R181–R184). -/

namespace Sys2Proof.Machine

/-- `SetNZ(v)` (R160): N is bit 7 of `v`, Z says whether `v` is zero. -/
def Status.setNZ (p : Status) (v : Byte) : Status := { p with n := v.msb, z := v == 0 }

/-- The accumulator-setting helper (R160): it always calls `SetNZ` on the new A. -/
def State.loadA (s : State) (v : Byte) : State := (s.setA v).setP (s.p.setNZ v)

/-- A load or transfer into X (R231). -/
def State.loadX (s : State) (v : Byte) : State := (s.setX v).setP (s.p.setNZ v)

/-- A load or transfer into Y (R231). -/
def State.loadY (s : State) (v : Byte) : State := (s.setY v).setP (s.p.setNZ v)

/-- What the adder gives. -/
structure AdderResult where
  sum      : Byte
  carry    : Bool
  overflow : Bool
  deriving DecidableEq, Repr

/-- The adder of R161: the exact unsigned sum gives the result and the carry, the exact signed sum the overflow. -/
def adder (a m : Byte) (ci : Bool) : AdderResult :=
  let s : Nat := a.toNat + m.toNat + ci.toNat
  let sv : Int := a.toInt + m.toInt + ci.toInt
  { sum := BitVec.ofNat 8 s, carry := decide (255 < s), overflow := decide (sv < -128 ∨ 127 < sv) }

/-- ADC's effect with addend `m` (R161); D is not read (R164). -/
def addWithCarry (m : Byte) (s : State) : State :=
  let r := adder s.a m s.p.c
  let s' := s.loadA r.sum
  s'.setP { s'.p with c := r.carry, v := r.overflow }

/-- SBC's effect (R162): the adder on the operand's complement. -/
def subtractWithCarry (m : Byte) (s : State) : State := addWithCarry (~~~m) s

/-- `Compare(r, M)` (R275): writes C, Z and N only. -/
def compareFlags (r m : Byte) (s : State) : State :=
  s.setP { s.p with c := decide (m.toNat ≤ r.toNat), z := r == m, n := (r - m).msb }

/-- BIT's effect (R274): Z from A & M, N and V from the memory byte itself. -/
def bitTest (m : Byte) (s : State) : State :=
  s.setP { s.p with z := s.a &&& m == 0, n := m.msb, v := m.getLsbD 6 }

/-- ASL's `op` (R181): the result and the bit shifted out. -/
def shiftLeft (v : Byte) (_ : Bool) : Byte × Bool := (v <<< 1, v.msb)

/-- LSR's `op` (R182). -/
def shiftRight (v : Byte) (_ : Bool) : Byte × Bool := (v >>> 1, v.getLsbD 0)

/-- ROL's `op` (R183): the old carry comes into bit 0. -/
def rotateLeft (v : Byte) (cin : Bool) : Byte × Bool := (v <<< 1 ||| (if cin then 0x01 else 0x00), v.msb)

/-- ROR's `op` (R184): the old carry comes into bit 7. -/
def rotateRight (v : Byte) (cin : Bool) : Byte × Bool := (v >>> 1 ||| (if cin then 0x80 else 0x00), v.getLsbD 0)

end Sys2Proof.Machine
end

