-- ==== Sys2Proof/Machine/Operands.lean ====
section
/-! DEFINITION. The addressing-mode resolver (40_addressing.md) and the shapes of the handlers over it.

Two forms of the resolver stand here. `effectiveAddress` takes the operand that the decoder read from the instruction's
bytes; the meanings use it. `resolve` is R130–R145 word for word: it takes the mode tag and reads the operand bytes from
memory itself. They agree on every fetched instruction (log entry 6). -/

namespace Sys2Proof.Machine

/-- `MemRead16` inside a step, where the crossing halts (R63, R332, D21). -/
def State.read16 (s : State) (a : Word) : Except HaltReason Word :=
  match s.mem.read16 s.cfg.topPolicy a with
  | .ok w => .ok w
  | .error _ => .error (.outOfRangeAccess 0xFFFF)

/-- `OpAddr(pc0, k)` (R131): the address of operand byte `k`. -/
def opAddr (s : State) (k : Nat) : Except HaltReason Word :=
  let t := s.pc.toNat + k
  if 0xFFFF < t then
    match s.cfg.topPolicy with
    | .fault => .error (.outOfRangeAccess 0xFFFF)
    | .wrap => .ok (BitVec.ofNat 16 t)
  else .ok (BitVec.ofNat 16 t)

/-- `OperandWord(pc0)` (R132). -/
def operandWord (s : State) : Except HaltReason Word :=
  match opAddr s 1 with
  | .error r => .error r
  | .ok a => s.read16 a

/-- `ZpPointer(p)` (R133): a pointer in page zero, its high byte under `ZP_PTR_WRAP`. -/
def zpPointer (s : State) (p : Byte) : Word :=
  let hiAddr : Word :=
    match s.cfg.zpPtrWrap with
    | .pageZero => zext16 (p + 1)
    | .linear => zext16 p + 1
  leWord (s.mem.read (zext16 p)) (s.mem.read hiAddr)

/-- The raise of a mode that has no memory operand (R145, R334). -/
def noAddress (s : State) (m : Mode) : HaltReason := .invalidAddressingModeUse (s.mem.read s.pc) m

/-- The effective address of a decoded operand (R134–R145). -/
def effectiveAddress (o : Operand) (s : State) : Except HaltReason Word :=
  match o with
  | .noneAddressing => .error (noAddress s .noneAddressing)
  | .accumulator => .error (noAddress s .accumulator)
  | .immediate _ => opAddr s 1
  | .zeroPage zp => .ok (zext16 zp)
  | .zeroPageX zp => .ok (zext16 (zp + s.x))
  | .zeroPageY zp => .ok (zext16 (zp + s.y))
  | .absolute addr => .ok addr
  | .absoluteX addr => .ok (addr + zext16 s.x)
  | .absoluteY addr => .ok (addr + zext16 s.y)
  | .indirect ptr => s.read16 ptr
  | .indirectX zp => .ok (zpPointer s (zp + s.x))
  | .indirectY zp => .ok (zpPointer s zp + zext16 s.y)
  | .relative _ => opAddr s 1

/-- The data operand `M` of a read instruction (R134, R148): the literal of an immediate, else the byte at the effective
address. -/
def operandByte (o : Operand) (s : State) : Except HaltReason Byte :=
  match o with
  | .immediate imm => .ok imm
  | .noneAddressing | .accumulator | .zeroPage _ | .zeroPageX _ | .zeroPageY _ | .absolute _ | .absoluteX _
  | .absoluteY _ | .indirect _ | .indirectX _ | .indirectY _ | .relative _ =>
    match effectiveAddress o s with
    | .ok ea => .ok (s.mem.read ea)
    | .error r => .error r

/-- `Resolve(mode, pc0)` as R130 to R145 write it, for the instruction at PC. -/
def resolve (mode : Mode) (s : State) : Except HaltReason Word :=
  match mode with
  | .noneAddressing => .error (noAddress s .noneAddressing)
  | .accumulator => .error (noAddress s .accumulator)
  | .immediate => opAddr s 1
  | .zeroPage => (opAddr s 1).map fun q => zext16 (s.mem.read q)
  | .zeroPageX => (opAddr s 1).map fun q => zext16 (s.mem.read q + s.x)
  | .zeroPageY => (opAddr s 1).map fun q => zext16 (s.mem.read q + s.y)
  | .absolute => operandWord s
  | .absoluteX => (operandWord s).map fun w => w + zext16 s.x
  | .absoluteY => (operandWord s).map fun w => w + zext16 s.y
  | .indirect => (operandWord s).bind s.read16
  | .indirectX => (opAddr s 1).map fun q => zpPointer s (s.mem.read q + s.x)
  | .indirectY => (opAddr s 1).map fun q => zpPointer s (s.mem.read q) + zext16 s.y
  | .relative => opAddr s 1

/-! The shapes of the handlers (R304), each ending in the engine's `complete`. -/

/-- A handler with no operand: implied forms. -/
def impliedForm (f : State → State) (s : State) : Answer := complete s Mode.noneAddressing.length (.ok (f s))

/-- A handler that reads its data operand once (R148). -/
def readForm (o : Operand) (f : Byte → State → State) (s : State) : Answer :=
  complete s o.mode.length <|
    match operandByte o s with
    | .ok m => .ok (f m s)
    | .error r => .error r

/-- A handler that stores a byte and does not read its operand (R148). -/
def storeForm (o : Operand) (v : Byte) (s : State) : Answer :=
  complete s o.mode.length <|
    match effectiveAddress o s with
    | .ok ea => .ok (s.store ea v)
    | .error r => .error r

/-- The frame of the shifts in accumulator mode (R180). -/
def accumulatorForm (op : Byte → Bool → Byte × Bool) (s : State) : Answer :=
  let r := op s.a s.p.c
  let s' := s.loadA r.1
  complete s Mode.accumulator.length (.ok (s'.setP { s'.p with c := r.2 }))

/-- The frame of the shifts on memory (R180): one read, one write to the same byte, N and Z from the stored result. -/
def modifyForm (o : Operand) (op : Byte → Bool → Byte × Bool) (s : State) : Answer :=
  complete s o.mode.length <|
    match effectiveAddress o s with
    | .ok ea =>
      let r := op (s.mem.read ea) s.p.c
      .ok ((s.store ea r.1).setP { s.p.setNZ r.1 with c := r.2 })
    | .error r => .error r

/-- The base that a displacement is added to (R202), as an integer. -/
def branchBase (s : State) : Int :=
  match s.cfg.branchBase with
  | .next => s.pc.toNat + 2
  | .opcode => s.pc.toNat

/-- `Branch(cond)` (R202) with the overflow case of R203. -/
def branchForm (rel : Byte) (cond : Bool) (s : State) : Answer :=
  complete s Mode.relative.length <|
    if cond then
      let t : Int := branchBase s + rel.toInt
      if t < 0 ∨ 0xFFFF < t then
        match s.cfg.branchOverflow with
        | .fatal => .error (.branchOverflow s.pc t)
        | .wrap => .ok (s.setPc (BitVec.ofInt 16 t))
      else .ok (s.setPc (BitVec.ofInt 16 t))
    else .ok s

/-- JMP (R205, R206): "sets PC directly to the resolved address". -/
def jumpForm (o : Operand) (s : State) : Answer :=
  complete s o.mode.length <|
    match effectiveAddress o s with
    | .ok ea => .ok (s.setPc ea)
    | .error r => .error r

/-- BRK (R258, R307): no effect of its own; the advance comes first, then the halt. -/
def breakForm (s : State) : Answer :=
  .next ((s.advance Mode.noneAddressing.length s).setPhase (.halted .brk))

end Sys2Proof.Machine
end

