-- ==== Sys2Proof/Machine/Adder.lean ====
section
/-! DEFINITION. ADC and SBC (41_adc_sbc.md). -/

namespace Sys2Proof.Machine

/-- ADC Immediate, 0x69 (R161). -/
def execAdcImmediate (imm : Byte) (s : State) : Answer := readForm (.immediate imm) addWithCarry s

/-- ADC ZeroPage, 0x65 (R161). -/
def execAdcZeroPage (zp : Byte) (s : State) : Answer := readForm (.zeroPage zp) addWithCarry s

/-- ADC ZeroPageX, 0x75 (R161). -/
def execAdcZeroPageX (zp : Byte) (s : State) : Answer := readForm (.zeroPageX zp) addWithCarry s

/-- ADC Absolute, 0x6D (R161). -/
def execAdcAbsolute (addr : Word) (s : State) : Answer := readForm (.absolute addr) addWithCarry s

/-- ADC AbsoluteX, 0x7D (R161). -/
def execAdcAbsoluteX (addr : Word) (s : State) : Answer := readForm (.absoluteX addr) addWithCarry s

/-- ADC AbsoluteY, 0x79 (R161). -/
def execAdcAbsoluteY (addr : Word) (s : State) : Answer := readForm (.absoluteY addr) addWithCarry s

/-- ADC IndirectX, 0x61 (R161). -/
def execAdcIndirectX (zp : Byte) (s : State) : Answer := readForm (.indirectX zp) addWithCarry s

/-- ADC IndirectY, 0x71 (R161). -/
def execAdcIndirectY (zp : Byte) (s : State) : Answer := readForm (.indirectY zp) addWithCarry s

/-- SBC Immediate, 0xE9 (R162). -/
def execSbcImmediate (imm : Byte) (s : State) : Answer := readForm (.immediate imm) subtractWithCarry s

/-- SBC ZeroPage, 0xE5 (R162). -/
def execSbcZeroPage (zp : Byte) (s : State) : Answer := readForm (.zeroPage zp) subtractWithCarry s

/-- SBC ZeroPageX, 0xF5 (R162). -/
def execSbcZeroPageX (zp : Byte) (s : State) : Answer := readForm (.zeroPageX zp) subtractWithCarry s

/-- SBC Absolute, 0xED (R162). -/
def execSbcAbsolute (addr : Word) (s : State) : Answer := readForm (.absolute addr) subtractWithCarry s

/-- SBC AbsoluteX, 0xFD (R162). -/
def execSbcAbsoluteX (addr : Word) (s : State) : Answer := readForm (.absoluteX addr) subtractWithCarry s

/-- SBC AbsoluteY, 0xF9 (R162). -/
def execSbcAbsoluteY (addr : Word) (s : State) : Answer := readForm (.absoluteY addr) subtractWithCarry s

/-- SBC IndirectX, 0xE1 (R162). -/
def execSbcIndirectX (zp : Byte) (s : State) : Answer := readForm (.indirectX zp) subtractWithCarry s

/-- SBC IndirectY, 0xF1 (R162). -/
def execSbcIndirectY (zp : Byte) (s : State) : Answer := readForm (.indirectY zp) subtractWithCarry s

end Sys2Proof.Machine
end

