-- ==== Sys2Proof/Machine/Control.lean ====
section
/-! DEFINITION. Control transfer: JMP, BCC, BCS (43_branch_jump.md) and the optional branches (48_optional_extensions.md
R278–R284). -/

namespace Sys2Proof.Machine

/-- JMP Absolute, 0x4C (R205). -/
def execJmpAbsolute (addr : Word) (s : State) : Answer := jumpForm (.absolute addr) s

/-- JMP Indirect, 0x6C (R206). -/
def execJmpIndirect (ptr : Word) (s : State) : Answer := jumpForm (.indirect ptr) s

/-- BCC Relative, 0x90 (R200). -/
def execBcc (rel : Byte) (s : State) : Answer := branchForm rel (!s.p.c) s

/-- BCS Relative, 0xB0 (R201). -/
def execBcs (rel : Byte) (s : State) : Answer := branchForm rel s.p.c s

/-- BPL Relative, 0x10 (R278). -/
def execBpl (rel : Byte) (s : State) : Answer := branchForm rel (!s.p.n) s

/-- BMI Relative, 0x30 (R279). -/
def execBmi (rel : Byte) (s : State) : Answer := branchForm rel s.p.n s

/-- BVC Relative, 0x50 (R280). -/
def execBvc (rel : Byte) (s : State) : Answer := branchForm rel (!s.p.v) s

/-- BVS Relative, 0x70 (R281). -/
def execBvs (rel : Byte) (s : State) : Answer := branchForm rel s.p.v s

/-- BNE Relative, 0xD0 (R282). -/
def execBne (rel : Byte) (s : State) : Answer := branchForm rel (!s.p.z) s

/-- BEQ Relative, 0xF0 (R283). -/
def execBeq (rel : Byte) (s : State) : Answer := branchForm rel s.p.z s

end Sys2Proof.Machine
end

