-- ==== Sys2Proof/Machine/FlagInstr.lean ====
section
/-! DEFINITION. The flag instructions, INX and BRK (45_flags_inx_brk.md). -/

namespace Sys2Proof.Machine

/-- CLC NoneAddressing, 0x18 (R250). -/
def execClc (s : State) : Answer := impliedForm (fun s => s.setP { s.p with c := false }) s

/-- SEC NoneAddressing, 0x38 (R251). -/
def execSec (s : State) : Answer := impliedForm (fun s => s.setP { s.p with c := true }) s

/-- CLI NoneAddressing, 0x58 (R252). -/
def execCli (s : State) : Answer := impliedForm (fun s => s.setP { s.p with i := false }) s

/-- SEI NoneAddressing, 0x78 (R253). -/
def execSei (s : State) : Answer := impliedForm (fun s => s.setP { s.p with i := true }) s

/-- CLD NoneAddressing, 0xD8 (R254). -/
def execCld (s : State) : Answer := impliedForm (fun s => s.setP { s.p with d := false }) s

/-- SED NoneAddressing, 0xF8 (R255). -/
def execSed (s : State) : Answer := impliedForm (fun s => s.setP { s.p with d := true }) s

/-- CLV NoneAddressing, 0xB8 (R256). -/
def execClv (s : State) : Answer := impliedForm (fun s => s.setP { s.p with v := false }) s

/-- INX NoneAddressing, 0xE8 (R257). -/
def execInx (s : State) : Answer := impliedForm (fun s => s.loadX (s.x + 1)) s

/-- BRK NoneAddressing, 0x00 (R258). -/
def execBrk (s : State) : Answer := breakForm s

end Sys2Proof.Machine
end

