-- ==== Sys2Proof/Machine/Logic.lean ====
section
/-! DEFINITION. The optional logic and compare groups (48_optional_extensions.md R271–R277). -/

namespace Sys2Proof.Machine

/-- AND Immediate, 0x29 (R271). -/
def execAndImmediate (imm : Byte) (s : State) : Answer := readForm (.immediate imm) (fun m s => s.loadA (s.a &&& m)) s

/-- AND ZeroPage, 0x25 (R271). -/
def execAndZeroPage (zp : Byte) (s : State) : Answer := readForm (.zeroPage zp) (fun m s => s.loadA (s.a &&& m)) s

/-- AND ZeroPageX, 0x35 (R271). -/
def execAndZeroPageX (zp : Byte) (s : State) : Answer := readForm (.zeroPageX zp) (fun m s => s.loadA (s.a &&& m)) s

/-- AND Absolute, 0x2D (R271). -/
def execAndAbsolute (addr : Word) (s : State) : Answer := readForm (.absolute addr) (fun m s => s.loadA (s.a &&& m)) s

/-- AND AbsoluteX, 0x3D (R271). -/
def execAndAbsoluteX (addr : Word) (s : State) : Answer := readForm (.absoluteX addr) (fun m s => s.loadA (s.a &&& m)) s

/-- AND AbsoluteY, 0x39 (R271). -/
def execAndAbsoluteY (addr : Word) (s : State) : Answer := readForm (.absoluteY addr) (fun m s => s.loadA (s.a &&& m)) s

/-- AND IndirectX, 0x21 (R271). -/
def execAndIndirectX (zp : Byte) (s : State) : Answer := readForm (.indirectX zp) (fun m s => s.loadA (s.a &&& m)) s

/-- AND IndirectY, 0x31 (R271). -/
def execAndIndirectY (zp : Byte) (s : State) : Answer := readForm (.indirectY zp) (fun m s => s.loadA (s.a &&& m)) s

/-- ORA Immediate, 0x09 (R272). -/
def execOraImmediate (imm : Byte) (s : State) : Answer := readForm (.immediate imm) (fun m s => s.loadA (s.a ||| m)) s

/-- ORA ZeroPage, 0x05 (R272). -/
def execOraZeroPage (zp : Byte) (s : State) : Answer := readForm (.zeroPage zp) (fun m s => s.loadA (s.a ||| m)) s

/-- ORA ZeroPageX, 0x15 (R272). -/
def execOraZeroPageX (zp : Byte) (s : State) : Answer := readForm (.zeroPageX zp) (fun m s => s.loadA (s.a ||| m)) s

/-- ORA Absolute, 0x0D (R272). -/
def execOraAbsolute (addr : Word) (s : State) : Answer := readForm (.absolute addr) (fun m s => s.loadA (s.a ||| m)) s

/-- ORA AbsoluteX, 0x1D (R272). -/
def execOraAbsoluteX (addr : Word) (s : State) : Answer := readForm (.absoluteX addr) (fun m s => s.loadA (s.a ||| m)) s

/-- ORA AbsoluteY, 0x19 (R272). -/
def execOraAbsoluteY (addr : Word) (s : State) : Answer := readForm (.absoluteY addr) (fun m s => s.loadA (s.a ||| m)) s

/-- ORA IndirectX, 0x01 (R272). -/
def execOraIndirectX (zp : Byte) (s : State) : Answer := readForm (.indirectX zp) (fun m s => s.loadA (s.a ||| m)) s

/-- ORA IndirectY, 0x11 (R272). -/
def execOraIndirectY (zp : Byte) (s : State) : Answer := readForm (.indirectY zp) (fun m s => s.loadA (s.a ||| m)) s

/-- EOR Immediate, 0x49 (R273). -/
def execEorImmediate (imm : Byte) (s : State) : Answer := readForm (.immediate imm) (fun m s => s.loadA (s.a ^^^ m)) s

/-- EOR ZeroPage, 0x45 (R273). -/
def execEorZeroPage (zp : Byte) (s : State) : Answer := readForm (.zeroPage zp) (fun m s => s.loadA (s.a ^^^ m)) s

/-- EOR ZeroPageX, 0x55 (R273). -/
def execEorZeroPageX (zp : Byte) (s : State) : Answer := readForm (.zeroPageX zp) (fun m s => s.loadA (s.a ^^^ m)) s

/-- EOR Absolute, 0x4D (R273). -/
def execEorAbsolute (addr : Word) (s : State) : Answer := readForm (.absolute addr) (fun m s => s.loadA (s.a ^^^ m)) s

/-- EOR AbsoluteX, 0x5D (R273). -/
def execEorAbsoluteX (addr : Word) (s : State) : Answer := readForm (.absoluteX addr) (fun m s => s.loadA (s.a ^^^ m)) s

/-- EOR AbsoluteY, 0x59 (R273). -/
def execEorAbsoluteY (addr : Word) (s : State) : Answer := readForm (.absoluteY addr) (fun m s => s.loadA (s.a ^^^ m)) s

/-- EOR IndirectX, 0x41 (R273). -/
def execEorIndirectX (zp : Byte) (s : State) : Answer := readForm (.indirectX zp) (fun m s => s.loadA (s.a ^^^ m)) s

/-- EOR IndirectY, 0x51 (R273). -/
def execEorIndirectY (zp : Byte) (s : State) : Answer := readForm (.indirectY zp) (fun m s => s.loadA (s.a ^^^ m)) s

/-- BIT ZeroPage, 0x24 (R274). -/
def execBitZeroPage (zp : Byte) (s : State) : Answer := readForm (.zeroPage zp) bitTest s

/-- BIT Absolute, 0x2C (R274). -/
def execBitAbsolute (addr : Word) (s : State) : Answer := readForm (.absolute addr) bitTest s

/-- CMP Immediate, 0xC9 (R275). -/
def execCmpImmediate (imm : Byte) (s : State) : Answer := readForm (.immediate imm) (fun m s => compareFlags s.a m s) s

/-- CMP ZeroPage, 0xC5 (R275). -/
def execCmpZeroPage (zp : Byte) (s : State) : Answer := readForm (.zeroPage zp) (fun m s => compareFlags s.a m s) s

/-- CMP ZeroPageX, 0xD5 (R275). -/
def execCmpZeroPageX (zp : Byte) (s : State) : Answer := readForm (.zeroPageX zp) (fun m s => compareFlags s.a m s) s

/-- CMP Absolute, 0xCD (R275). -/
def execCmpAbsolute (addr : Word) (s : State) : Answer := readForm (.absolute addr) (fun m s => compareFlags s.a m s) s

/-- CMP AbsoluteX, 0xDD (R275). -/
def execCmpAbsoluteX (addr : Word) (s : State) : Answer := readForm (.absoluteX addr) (fun m s => compareFlags s.a m s) s

/-- CMP AbsoluteY, 0xD9 (R275). -/
def execCmpAbsoluteY (addr : Word) (s : State) : Answer := readForm (.absoluteY addr) (fun m s => compareFlags s.a m s) s

/-- CMP IndirectX, 0xC1 (R275). -/
def execCmpIndirectX (zp : Byte) (s : State) : Answer := readForm (.indirectX zp) (fun m s => compareFlags s.a m s) s

/-- CMP IndirectY, 0xD1 (R275). -/
def execCmpIndirectY (zp : Byte) (s : State) : Answer := readForm (.indirectY zp) (fun m s => compareFlags s.a m s) s

/-- CPX Immediate, 0xE0 (R276). -/
def execCpxImmediate (imm : Byte) (s : State) : Answer := readForm (.immediate imm) (fun m s => compareFlags s.x m s) s

/-- CPX ZeroPage, 0xE4 (R276). -/
def execCpxZeroPage (zp : Byte) (s : State) : Answer := readForm (.zeroPage zp) (fun m s => compareFlags s.x m s) s

/-- CPX Absolute, 0xEC (R276). -/
def execCpxAbsolute (addr : Word) (s : State) : Answer := readForm (.absolute addr) (fun m s => compareFlags s.x m s) s

/-- CPY Immediate, 0xC0 (R277). -/
def execCpyImmediate (imm : Byte) (s : State) : Answer := readForm (.immediate imm) (fun m s => compareFlags s.y m s) s

/-- CPY ZeroPage, 0xC4 (R277). -/
def execCpyZeroPage (zp : Byte) (s : State) : Answer := readForm (.zeroPage zp) (fun m s => compareFlags s.y m s) s

/-- CPY Absolute, 0xCC (R277). -/
def execCpyAbsolute (addr : Word) (s : State) : Answer := readForm (.absolute addr) (fun m s => compareFlags s.y m s) s

end Sys2Proof.Machine
end

