-- ==== Sys2Proof/Machine/Shift.lean ====
section
/-! DEFINITION. The shifts and rotates (42_shift_rotate.md): ASL, LSR, ROL, ROR, on the accumulator and on memory. -/

namespace Sys2Proof.Machine

/-- ASL Accumulator, 0x0A (R181). -/
def execAslAccumulator (s : State) : Answer := accumulatorForm shiftLeft s

/-- ASL ZeroPage, 0x06 (R181). -/
def execAslZeroPage (zp : Byte) (s : State) : Answer := modifyForm (.zeroPage zp) shiftLeft s

/-- ASL ZeroPageX, 0x16 (R181). -/
def execAslZeroPageX (zp : Byte) (s : State) : Answer := modifyForm (.zeroPageX zp) shiftLeft s

/-- ASL Absolute, 0x0E (R181). -/
def execAslAbsolute (addr : Word) (s : State) : Answer := modifyForm (.absolute addr) shiftLeft s

/-- ASL AbsoluteX, 0x1E (R181). -/
def execAslAbsoluteX (addr : Word) (s : State) : Answer := modifyForm (.absoluteX addr) shiftLeft s

/-- LSR Accumulator, 0x4A (R182). -/
def execLsrAccumulator (s : State) : Answer := accumulatorForm shiftRight s

/-- LSR ZeroPage, 0x46 (R182). -/
def execLsrZeroPage (zp : Byte) (s : State) : Answer := modifyForm (.zeroPage zp) shiftRight s

/-- LSR ZeroPageX, 0x56 (R182). -/
def execLsrZeroPageX (zp : Byte) (s : State) : Answer := modifyForm (.zeroPageX zp) shiftRight s

/-- LSR Absolute, 0x4E (R182). -/
def execLsrAbsolute (addr : Word) (s : State) : Answer := modifyForm (.absolute addr) shiftRight s

/-- LSR AbsoluteX, 0x5E (R182). -/
def execLsrAbsoluteX (addr : Word) (s : State) : Answer := modifyForm (.absoluteX addr) shiftRight s

/-- ROL Accumulator, 0x2A (R183). -/
def execRolAccumulator (s : State) : Answer := accumulatorForm rotateLeft s

/-- ROL ZeroPage, 0x26 (R183). -/
def execRolZeroPage (zp : Byte) (s : State) : Answer := modifyForm (.zeroPage zp) rotateLeft s

/-- ROL ZeroPageX, 0x36 (R183). -/
def execRolZeroPageX (zp : Byte) (s : State) : Answer := modifyForm (.zeroPageX zp) rotateLeft s

/-- ROL Absolute, 0x2E (R183). -/
def execRolAbsolute (addr : Word) (s : State) : Answer := modifyForm (.absolute addr) rotateLeft s

/-- ROL AbsoluteX, 0x3E (R183). -/
def execRolAbsoluteX (addr : Word) (s : State) : Answer := modifyForm (.absoluteX addr) rotateLeft s

/-- ROR Accumulator, 0x6A (R184). -/
def execRorAccumulator (s : State) : Answer := accumulatorForm rotateRight s

/-- ROR ZeroPage, 0x66 (R184). -/
def execRorZeroPage (zp : Byte) (s : State) : Answer := modifyForm (.zeroPage zp) rotateRight s

/-- ROR ZeroPageX, 0x76 (R184). -/
def execRorZeroPageX (zp : Byte) (s : State) : Answer := modifyForm (.zeroPageX zp) rotateRight s

/-- ROR Absolute, 0x6E (R184). -/
def execRorAbsolute (addr : Word) (s : State) : Answer := modifyForm (.absolute addr) rotateRight s

/-- ROR AbsoluteX, 0x7E (R184). -/
def execRorAbsoluteX (addr : Word) (s : State) : Answer := modifyForm (.absoluteX addr) rotateRight s

end Sys2Proof.Machine
end

