-- ==== Sys2Proof/Machine/Transfer.lean ====
section
/-! DEFINITION. Loads, stores and register transfers (44_load_store_transfer.md). -/

namespace Sys2Proof.Machine

/-- LDA Immediate, 0xA9 (R220). -/
def execLdaImmediate (imm : Byte) (s : State) : Answer := readForm (.immediate imm) (fun m s => s.loadA m) s

/-- LDA ZeroPage, 0xA5 (R220). -/
def execLdaZeroPage (zp : Byte) (s : State) : Answer := readForm (.zeroPage zp) (fun m s => s.loadA m) s

/-- LDA ZeroPageX, 0xB5 (R220). -/
def execLdaZeroPageX (zp : Byte) (s : State) : Answer := readForm (.zeroPageX zp) (fun m s => s.loadA m) s

/-- LDA Absolute, 0xAD (R220). -/
def execLdaAbsolute (addr : Word) (s : State) : Answer := readForm (.absolute addr) (fun m s => s.loadA m) s

/-- LDA AbsoluteX, 0xBD (R220). -/
def execLdaAbsoluteX (addr : Word) (s : State) : Answer := readForm (.absoluteX addr) (fun m s => s.loadA m) s

/-- LDA AbsoluteY, 0xB9 (R220). -/
def execLdaAbsoluteY (addr : Word) (s : State) : Answer := readForm (.absoluteY addr) (fun m s => s.loadA m) s

/-- LDA IndirectX, 0xA1 (R220). -/
def execLdaIndirectX (zp : Byte) (s : State) : Answer := readForm (.indirectX zp) (fun m s => s.loadA m) s

/-- LDA IndirectY, 0xB1 (R220). -/
def execLdaIndirectY (zp : Byte) (s : State) : Answer := readForm (.indirectY zp) (fun m s => s.loadA m) s

/-- LDX Immediate, 0xA2 (R221). -/
def execLdxImmediate (imm : Byte) (s : State) : Answer := readForm (.immediate imm) (fun m s => s.loadX m) s

/-- LDX ZeroPage, 0xA6 (R221). -/
def execLdxZeroPage (zp : Byte) (s : State) : Answer := readForm (.zeroPage zp) (fun m s => s.loadX m) s

/-- LDX ZeroPageY, 0xB6 (R221). -/
def execLdxZeroPageY (zp : Byte) (s : State) : Answer := readForm (.zeroPageY zp) (fun m s => s.loadX m) s

/-- LDX Absolute, 0xAE (R221). -/
def execLdxAbsolute (addr : Word) (s : State) : Answer := readForm (.absolute addr) (fun m s => s.loadX m) s

/-- LDX AbsoluteY, 0xBE (R221). -/
def execLdxAbsoluteY (addr : Word) (s : State) : Answer := readForm (.absoluteY addr) (fun m s => s.loadX m) s

/-- LDY Immediate, 0xA0 (R222). -/
def execLdyImmediate (imm : Byte) (s : State) : Answer := readForm (.immediate imm) (fun m s => s.loadY m) s

/-- LDY ZeroPage, 0xA4 (R222). -/
def execLdyZeroPage (zp : Byte) (s : State) : Answer := readForm (.zeroPage zp) (fun m s => s.loadY m) s

/-- LDY ZeroPageX, 0xB4 (R222). -/
def execLdyZeroPageX (zp : Byte) (s : State) : Answer := readForm (.zeroPageX zp) (fun m s => s.loadY m) s

/-- LDY Absolute, 0xAC (R222). -/
def execLdyAbsolute (addr : Word) (s : State) : Answer := readForm (.absolute addr) (fun m s => s.loadY m) s

/-- LDY AbsoluteX, 0xBC (R222). -/
def execLdyAbsoluteX (addr : Word) (s : State) : Answer := readForm (.absoluteX addr) (fun m s => s.loadY m) s

/-- STA ZeroPage, 0x85 (R223). -/
def execStaZeroPage (zp : Byte) (s : State) : Answer := storeForm (.zeroPage zp) s.a s

/-- STA ZeroPageX, 0x95 (R223). -/
def execStaZeroPageX (zp : Byte) (s : State) : Answer := storeForm (.zeroPageX zp) s.a s

/-- STA Absolute, 0x8D (R223). -/
def execStaAbsolute (addr : Word) (s : State) : Answer := storeForm (.absolute addr) s.a s

/-- STA AbsoluteX, 0x9D (R223). -/
def execStaAbsoluteX (addr : Word) (s : State) : Answer := storeForm (.absoluteX addr) s.a s

/-- STA AbsoluteY, 0x99 (R223). -/
def execStaAbsoluteY (addr : Word) (s : State) : Answer := storeForm (.absoluteY addr) s.a s

/-- STA IndirectX, 0x81 (R223). -/
def execStaIndirectX (zp : Byte) (s : State) : Answer := storeForm (.indirectX zp) s.a s

/-- STA IndirectY, 0x91 (R223). -/
def execStaIndirectY (zp : Byte) (s : State) : Answer := storeForm (.indirectY zp) s.a s

/-- STX ZeroPage, 0x86 (R224). -/
def execStxZeroPage (zp : Byte) (s : State) : Answer := storeForm (.zeroPage zp) s.x s

/-- STX ZeroPageY, 0x96 (R224). -/
def execStxZeroPageY (zp : Byte) (s : State) : Answer := storeForm (.zeroPageY zp) s.x s

/-- STX Absolute, 0x8E (R224). -/
def execStxAbsolute (addr : Word) (s : State) : Answer := storeForm (.absolute addr) s.x s

/-- STY ZeroPage, 0x84 (R225). -/
def execStyZeroPage (zp : Byte) (s : State) : Answer := storeForm (.zeroPage zp) s.y s

/-- STY ZeroPageX, 0x94 (R225). -/
def execStyZeroPageX (zp : Byte) (s : State) : Answer := storeForm (.zeroPageX zp) s.y s

/-- STY Absolute, 0x8C (R225). -/
def execStyAbsolute (addr : Word) (s : State) : Answer := storeForm (.absolute addr) s.y s

/-- TAX NoneAddressing, 0xAA (R226). -/
def execTax (s : State) : Answer := impliedForm (fun s => s.loadX s.a) s

/-- TAY NoneAddressing, 0xA8 (R227). -/
def execTay (s : State) : Answer := impliedForm (fun s => s.loadY s.a) s

/-- TXA NoneAddressing, 0x8A (R228). -/
def execTxa (s : State) : Answer := impliedForm (fun s => s.loadA s.x) s

/-- TYA NoneAddressing, 0x98 (R229). -/
def execTya (s : State) : Answer := impliedForm (fun s => s.loadA s.y) s

end Sys2Proof.Machine
end

