-- ==== Sys2Proof/WellFormed.lean ====
section
/-! DEFINITION. The well-formedness checks. The operand fields of `Instr` have exactly the widths the encodings give them
and every (mnemonic, mode) pair that `Instr` can write is a row of the table, so what is left to check depends on the
configuration: whether its table holds the instruction (R7, R96, R97, R100). -/

namespace Sys2Proof

/-- An instruction is well-formed in a configuration if the configuration's table has an entry for its opcode byte
(R12, R97). -/
def Instr.wf (cfg : Config) (i : Instr) : Bool := (cfg.entry i.opcode).isSome

/-- A configuration is well-formed if `BASE_OMIT` is "a set of opcode bytes from the table of R96" (R7): no byte twice,
and each the opcode of a base row. -/
def Config.wf (cfg : Config) : Bool :=
  decide cfg.baseOmit.Nodup && cfg.baseOmit.all fun op => (tableRow op).any fun r => r.group == .base

end Sys2Proof
end

