-- ==== Sys2Proof/Machine/Fetch.lean ====
section
/-! DEFINITION. Fetch and decode (R302, R337): the lookup comes first, then the reads of the operand bytes. -/

namespace Sys2Proof.Machine

/-- The operand bytes of the instruction at PC, for a mode: one byte at `OpAddr(pc0, 1)`, or two through `MemRead16`
(R131, R132). -/
def operandBytesAt (mode : Mode) (s : State) : Except HaltReason (List Byte) :=
  match mode.operandBytes with
  | 0 => .ok []
  | 1 => (opAddr s 1).map fun q => [s.mem.read q]
  | _ => (operandWord s).map fun w => [lowByte w, highByte w]

/-- Fetches and decodes the instruction at PC, or raises (R97, R302, R337). The decoder cannot reject bytes that the
lookup accepted (R102); if it did, that would be the same halt. -/
def fetch (s : State) : Except HaltReason Instr :=
  let op := s.mem.read s.pc
  match s.cfg.entry op with
  | none => .error (.unimplementedOpcode op s.pc)
  | some row =>
    match operandBytesAt row.mode s with
    | .error r => .error r
    | .ok bs =>
      match decode (op :: bs) with
      | .ok (i, _) => .ok i
      | .error _ => .error (.unimplementedOpcode op s.pc)

/-- One step of a running machine, given what `exec` does: a raise of the fetch, or the fetched instruction (R300). -/
def fetchAndRun (run : Instr → State → Answer) (s : State) : Answer :=
  match fetch s with
  | .error r => .next (s.raise r)
  | .ok i => run i s

/-- The phase gate of a step (R301): a halted machine reports its halt again and changes nothing, a machine that was
never reset refuses. -/
def gated (running : State → Answer) (s : State) : Answer :=
  match s.phase with
  | .notStarted => .refused .hostProtocol
  | .halted _ => .next s
  | .running => running s

/-- Puts an instruction's bytes where the next step fetches them, with its row in the table and the engine running. -/
def placeInstruction (s : State) (bytes : List Byte) : State :=
  { s with
    mem := s.mem.writeBytes s.pc bytes
    phase := .running
    cfg := s.cfg.withOpcode (bytes.headD 0) }

end Sys2Proof.Machine
end

