-- ==== Sys2Proof/Machine/Step.lean ====
section
/-! DEFINITION. One step of the machine (R300), and the placing of one instruction for the next step. -/

namespace Sys2Proof.Machine

/-- `step()` (R300): the phase gate, the fetch, the instruction. -/
def step (s : State) : Host.Outcome State Fault Refusal := gated (fetchAndRun exec) s

/-- `s` with the instruction whose bits are `w` where `step` fetches its next instruction (log entry 3, log entry 12). -/
def State.withFetchWord (s : State) (nbits w : Nat) : State := placeInstruction s (tableBytes nbits w)

end Sys2Proof.Machine
end

