-- ==== Sys2Proof/Machine/HostInterface.lean ====
section
/-! DEFINITION. The host's operations on the core (R366): load, run, interpret, and the direct memory calls.
`construct` is `State.constructed`, `reset()` is `State.restart`, `step()` is `step`, and state inspection is reading the
fields. No operation here writes a register, a flag or the PC (D13, I16). -/

namespace Sys2Proof.Machine

/-- `load(program)` (R362, R363): the program at 0x8000, then the reset vector, or `RangeOverflow` and no write. -/
def State.load (s : State) (program : List Byte) : Except MemoryError State :=
  match s.mem.writeRange 0x8000 program with
  | .error e => .error e
  | .ok m =>
    match m.write16 s.cfg.topPolicy 0xFFFC 0x8000 with
    | .error e => .error e
    | .ok m' => .ok { s with mem := m' }

/-- How a run under fuel ends (R309). -/
inductive RunEnd where
  /-- a step reported `Halted(reason)`: the reason `run` returns, and the state then -/
  | halted (r : HaltReason) (s : State)
  /-- the fuel ran out: no halt reason of the core, the program had not ended (R309, R312, I9) -/
  | outOfFuel (s : State)
  /-- a step had no next state: the host protocol was broken (R301) -/
  | noStep
  deriving DecidableEq, Repr

/-- `run()` (R309) under fuel: steps until a step reports a halt. -/
def State.run : Nat → State → RunEnd
  | 0, s => .outOfFuel s
  | fuel + 1, s =>
    match step s with
    | .fault _ => .noStep
    | .refused _ => .noStep
    | .next s' =>
      match s'.haltReason with
      | some r => .halted r s'
      | none => State.run fuel s'

/-- `interpret(program)` (R365) under fuel: load, reset, run; a load failure comes first and changes nothing. -/
def State.interpret (fuel : Nat) (s : State) (program : List Byte) : Except MemoryError RunEnd :=
  match s.load program with
  | .error e => .error e
  | .ok s' => .ok (s'.restart.run fuel)

/-- A host write of one memory byte between calls (R81). -/
def State.hostWrite (s : State) (a : Word) (v : Byte) : State := s.store a v

/-- A host read of one memory byte between calls (R61, R81). -/
def State.hostRead (s : State) (a : Word) : Byte := s.mem.read a

/-- A direct `read16` call: the crossing is returned, nothing halts (R63, R332). -/
def State.hostRead16 (s : State) (a : Word) : Except MemoryError Word := s.mem.read16 s.cfg.topPolicy a

/-- A direct `write16` call (R64, R332). -/
def State.hostWrite16 (s : State) (a v : Word) : Except MemoryError State :=
  match s.mem.write16 s.cfg.topPolicy a v with
  | .error e => .error e
  | .ok m => .ok { s with mem := m }

/-- A direct `write_range` call (R65, R335). -/
def State.hostWriteRange (s : State) (start : Word) (bytes : List Byte) : Except MemoryError State :=
  match s.mem.writeRange start bytes with
  | .error e => .error e
  | .ok m => .ok { s with mem := m }

end Sys2Proof.Machine
end

