-- ==== Sys2Proof/Safety.lean ====
section
/-! DEFINITION. What counts as a safe run, in the terms the claims use: the normal end, and the machine's invariant. -/

namespace Sys2Proof.Machine

/-- The code of a halt reason (R330, D9: a name with no behaviour attached). -/
def HaltReason.code : HaltReason → Nat
  | .brk => 0
  | .unimplementedOpcode _ _ => 1
  | .outOfRangeAccess _ => 2
  | .branchOverflow _ _ => 3
  | .invalidAddressingModeUse _ _ => 4

/-- Fatal, as R330's last column says: every reason but `Break`. -/
def HaltReason.fatal : HaltReason → Bool
  | .brk => false
  | .unimplementedOpcode _ _ | .outOfRangeAccess _ | .branchOverflow _ _ | .invalidAddressingModeUse _ _ => true

/-- A run is safe if it ends with `Break` (R312: a claim names the halt reason it expects, normally `Break`). -/
def RunEnd.safe : RunEnd → Bool
  | .halted r _ => !r.fatal
  | .outOfFuel _ | .noStep => false

/-- The halt record tells the truth about the state it stands in (R330–R334, R338): the payload is the condition's own,
the configuration is one that raises it, and PC is where R306 and R307 leave it. -/
def State.HaltRecordTrue (s : State) : Prop :=
  match s.phase with
  | .notStarted | .running => True
  | .halted .brk => s.mem.read (s.pc - 1) = 0x00
  | .halted (.unimplementedOpcode op pc) => pc = s.pc ∧ op = s.mem.read s.pc ∧ s.cfg.entry op = none
  | .halted (.outOfRangeAccess a) => a = 0xFFFF ∧ s.cfg.topPolicy = .fault
  | .halted (.branchOverflow pc t) => pc = s.pc ∧ (t < 0 ∨ 0xFFFF < t) ∧ s.cfg.branchOverflow = .fatal
  | .halted (.invalidAddressingModeUse _ _) => False

/-- The invariant of the machine: memory in canonical form, B clear (R38), a true halt record. -/
structure State.Inv (s : State) : Prop where
  memory_wf : s.mem.wf = true
  break_clear : s.p.b = false
  halt_record : s.HaltRecordTrue

end Sys2Proof.Machine
end

