-- ==== Sys2Proof/Certificates/Slice0/Obligations.lean ====
section
/-! DEFINITION. The statements about the model, for the provers. Each says which rule of the spec it formalises.
The words they are written in stand first, under `Sys2Proof.Claims`. -/

namespace Sys2Proof.Claims

open Sys2Proof.Machine

/-- The forms of a mnemonic: exactly these addressing modes, with these opcode bytes. -/
def HasForms (m : Mnemonic) (forms : List (Mode × Byte)) : Prop :=
  (∀ i : Instr, i.mnemonic = m → (i.mode, i.opcode) ∈ forms) ∧
    ∀ f ∈ forms, ∃ i : Instr, i.mnemonic = m ∧ (i.mode, i.opcode) = f

/-- The PC behind an instruction, where that lies inside the address space. What happens past the top is a decision of
the spec (D8), stated on its own in `AdvanceWrapsModulo`. -/
def NextPc (i : Instr) (s : State) (w : Word) : Prop :=
  s.pc.toNat + i.length ≤ 0xFFFF → w.toNat = s.pc.toNat + i.length

/-- `M`, the data operand: the literal, or the byte at the effective address (R134, R148). -/
def DataOperand (i : Instr) (s : State) (M : Byte) : Prop :=
  (∀ imm, i.operand = .immediate imm → M = imm) ∧
    (i.mode ≠ .immediate → ∃ ea, effectiveAddress i.operand s = .ok ea ∧ M = s.mem.read ea)

/-- The flags after `SetNZ(v)` (R160), the others as they were. -/
def nz (p : Status) (v : Byte) : Status := { p with n := v.getLsbD 7, z := decide (v = 0) }

/-- The machine runs and the byte at PC has an entry of this mnemonic in the configuration's table. -/
def Fetches (s : State) (m : Mnemonic) : Prop :=
  s.phase = .running ∧ ∃ row, s.cfg.entry (s.mem.read s.pc) = some row ∧ row.mnemonic = m

/-- A step on this mnemonic halts with no other reason than these. -/
def RaisesOnly (m : Mnemonic) (allowed : State → HaltReason → Prop) : Prop :=
  ∀ s t r, Fetches s m → step s = .next t → t.phase = .halted r → allowed s r

/-- What Resolve may raise (R146): `OutOfRangeAccess`, under `TOP_POLICY = Fault`. -/
def ofResolve (s : State) (r : HaltReason) : Prop := r = .outOfRangeAccess 0xFFFF ∧ s.cfg.topPolicy = .fault

/-- No halt at all. -/
def never (_ : State) (_ : HaltReason) : Prop := False

/-- What a branch may raise (R200): `BranchOverflow`, under R203, when taken; `OutOfRangeAccess` only at pc0 = 0xFFFF. -/
def ofBranch (cond : Status → Bool) (s : State) (r : HaltReason) : Prop :=
  (ofResolve s r ∧ s.pc = 0xFFFF) ∨
    (cond s.p = true ∧ s.cfg.branchOverflow = .fatal ∧
      ∃ t : Int, r = .branchOverflow s.pc t ∧ (t < 0 ∨ 0xFFFF < t))

/-- The adder with an addend (R161, R162): exact sums, unsigned for the result and C, signed for V. -/
def adds (s : State) (addend : Byte) (pc' : Word) : State :=
  let ci : Nat := if s.p.c then 1 else 0
  let sum : Nat := s.a.toNat + addend.toNat + ci
  let sv : Int := s.a.toInt + addend.toInt + ci
  let r : Byte := BitVec.ofNat 8 sum
  { s with a := r, p := { nz s.p r with c := decide (255 < sum), v := decide (sv < -128 ∨ 127 < sv) }, pc := pc' }

/-- An instruction that reads `M` and leaves the state `f s M pc'`: its forms, its raises, its effect. -/
def ReadsOperand (m : Mnemonic) (forms : List (Mode × Byte)) (f : State → Byte → Word → State) : Prop :=
  HasForms m forms ∧ RaisesOnly m ofResolve ∧
    ∀ (i : Instr) (s : State), i.mnemonic = m →
      ∃ (M : Byte) (pc' : Word), DataOperand i s M ∧ NextPc i s pc' ∧ exec i s = .next (f s M pc')

/-- An instruction of one byte with no operand that leaves the state `f s pc'`. -/
def Implied (m : Mnemonic) (op : Byte) (f : State → Word → State) : Prop :=
  HasForms m [(.noneAddressing, op)] ∧ RaisesOnly m never ∧
    ∀ (i : Instr) (s : State), i.mnemonic = m → ∃ pc' : Word, NextPc i s pc' ∧ exec i s = .next (f s pc')

/-- A store of a register: the byte at the effective address takes its value, every other byte reads as before, and
nothing else changes but PC. -/
def StoresByte (m : Mnemonic) (forms : List (Mode × Byte)) (reg : State → Byte) : Prop :=
  HasForms m forms ∧ RaisesOnly m ofResolve ∧
    ∀ (i : Instr) (s : State), i.mnemonic = m →
      ∃ (ea pc' : Word) (mem' : Memory), effectiveAddress i.operand s = .ok ea ∧ NextPc i s pc' ∧
        exec i s = .next { s with mem := mem', pc := pc' } ∧
        mem'.read ea = reg s ∧ ∀ b, b ≠ ea → mem'.read b = s.mem.read b

/-- A shift or rotate (R180) by `op`, which gives the result and the bit shifted out: on A in accumulator mode, else on
the byte at the effective address, every other byte reading as before. C, N and Z are the only flags written. -/
def Shifts (m : Mnemonic) (forms : List (Mode × Byte)) (op : Byte → Bool → Byte × Bool) : Prop :=
  HasForms m forms ∧ RaisesOnly m ofResolve ∧
    ∀ (i : Instr) (s : State), i.mnemonic = m →
      (i.mode = .accumulator → ∃ pc' : Word, NextPc i s pc' ∧
        exec i s = .next { s with a := (op s.a s.p.c).1,
                                  p := { nz s.p (op s.a s.p.c).1 with c := (op s.a s.p.c).2 }, pc := pc' }) ∧
      (i.mode ≠ .accumulator → ∃ (ea pc' : Word) (mem' : Memory),
        effectiveAddress i.operand s = .ok ea ∧ NextPc i s pc' ∧
        exec i s = .next { s with mem := mem',
                                  p := { nz s.p (op (s.mem.read ea) s.p.c).1 with c := (op (s.mem.read ea) s.p.c).2 },
                                  pc := pc' } ∧
        mem'.read ea = (op (s.mem.read ea) s.p.c).1 ∧ ∀ b, b ≠ ea → mem'.read b = s.mem.read b)

/-- A carry as a number. -/
def bit (c : Bool) : Nat := if c then 1 else 0

/-- The target of a branch as an integer (R202): the displacement is signed and added to the address of the next
instruction, or, under `BRANCH_BASE = Opcode`, to the branch's own. -/
def target (rel : Byte) (s : State) : Int :=
  (s.pc.toNat : Int) + (if s.cfg.branchBase = .next then 2 else 0) + rel.toInt

/-- An instruction falls through: PC goes behind it and nothing else changes. -/
def FallsThrough (i : Instr) (s : State) : Prop :=
  ∃ pc' : Word, NextPc i s pc' ∧ exec i s = .next { s with pc := pc' }

/-- `Branch(cond)` (R202, R203, R204) for one branch instruction, in every case: not taken, taken inside the address
space (a target equal to the branch's own address falls through), taken past its ends under each policy. -/
def BranchEffect (i : Instr) (rel : Byte) (cond : Bool) (s : State) : Prop :=
  if cond = false then FallsThrough i s
  else if 0 ≤ target rel s ∧ target rel s ≤ 0xFFFF then
    if target rel s = (s.pc.toNat : Int) then FallsThrough i s
    else ∃ w : Word, (w.toNat : Int) = target rel s ∧ exec i s = .next { s with pc := w }
  else if s.cfg.branchOverflow = .fatal then
    exec i s = .next { s with phase := .halted (.branchOverflow s.pc (target rel s)) }
  else ∃ w : Word, (w.toNat : Int) = target rel s % 0x10000 ∧ exec i s = .next { s with pc := w }

/-- Whether an instruction writes PC: JMP does, a branch does when its flag has the value it asks for (R202, R304). -/
def writesPc (m : Mnemonic) (p : Status) : Bool :=
  match m with
  | .jmp => true
  | .bcc => !p.c
  | .bcs => p.c
  | .bpl => !p.n
  | .bmi => p.n
  | .bvc => !p.v
  | .bvs => p.v
  | .bne => !p.z
  | .beq => p.z
  | .adc | .sbc | .asl | .lsr | .rol | .ror | .lda | .ldx | .ldy | .sta | .stx | .sty | .tax | .tay | .txa | .tya | .clc
  | .sec | .cli | .sei | .cld | .sed | .clv | .inx | .brk | .and | .ora | .eor | .bit | .cmp | .cpx | .cpy => false

/-- A conditional branch: its form, its raises, its effect in every case. -/
def Branches (m : Mnemonic) (op : Byte) (cond : Status → Bool) : Prop :=
  HasForms m [(.relative, op)] ∧ RaisesOnly m (ofBranch cond) ∧
    ∀ (i : Instr) (s : State), i.mnemonic = m → ∃ rel, i.operand = .relative rel ∧ BranchEffect i rel (cond s.p) s

/-- A jump to `w`: PC is `w`, or, if `w` is the jump's own address, the next instruction (R207). -/
def JumpsTo (i : Instr) (s : State) (w : Word) : Prop :=
  (w ≠ s.pc → exec i s = .next { s with pc := w }) ∧ (w = s.pc → FallsThrough i s)

/-- The group that decides whether an instruction is in the table (R270). -/
def inTable (cfg : Config) (i : Instr) : Prop :=
  if i.mnemonic ∈ [.and, .ora, .eor, .bit] then cfg.extLogic = true
  else if i.mnemonic ∈ [.cmp, .cpx, .cpy] then cfg.extCompare = true
  else if i.mnemonic ∈ [.bpl, .bmi, .bvc, .bvs, .bne, .beq] then cfg.extBranch = true
  else i.opcode ∉ cfg.baseOmit

/-- A fetched JMP form halts with `OutOfRangeAccess` exactly cause the condition holds, and halts with nothing else. -/
def JumpRaises (i : Instr) (cause : State → Prop) : Prop :=
  ∀ s : State, s.phase = .running → s.mem.read s.pc = i.opcode → inTable s.cfg i →
    ((cause s ∧ s.cfg.topPolicy = .fault) → step s = .next { s with phase := .halted (.outOfRangeAccess 0xFFFF) }) ∧
    (¬ (cause s ∧ s.cfg.topPolicy = .fault) → ∃ t, step s = .next t ∧ t.phase = .running)

/-- `Compare(r, M)` (R275). -/
def compares (reg : State → Byte) (s : State) (M : Byte) (pc' : Word) : State :=
  { s with p := { s.p with c := decide (M.toNat ≤ (reg s).toNat), z := decide (reg s = M),
                           n := (BitVec.ofNat 8 ((reg s).toNat + 256 - M.toNat)).getLsbD 7 }, pc := pc' }

/-! Who writes and who reads what (R31, R32, R33, R36). -/

/-- The shifts and rotates. -/
def shifts : List Mnemonic := [.asl, .lsr, .rol, .ror]

/-- R31: the instructions that write A. -/
def writesA (i : Instr) : Prop :=
  i.mnemonic ∈ [.lda, .txa, .tya, .adc, .sbc, .and, .ora, .eor] ∨ (i.mnemonic ∈ shifts ∧ i.mode = .accumulator)

/-- R31: the instructions that read A. -/
def readsA (i : Instr) : Prop :=
  i.mnemonic ∈ [.sta, .tax, .tay, .adc, .sbc, .and, .ora, .eor, .bit, .cmp] ∨
    (i.mnemonic ∈ shifts ∧ i.mode = .accumulator)

/-- R32: the instructions that write X. -/
def writesX (i : Instr) : Prop := i.mnemonic ∈ [.ldx, .tax, .inx]

/-- R32: the instructions that read X, themselves or in their address. -/
def readsX (i : Instr) : Prop :=
  i.mnemonic ∈ [.stx, .txa, .inx, .cpx] ∨ i.mode ∈ [.zeroPageX, .absoluteX, .indirectX]

/-- R33: the instructions that write Y. -/
def writesY (i : Instr) : Prop := i.mnemonic ∈ [.ldy, .tay]

/-- R33: the instructions that read Y, themselves or in their address. -/
def readsY (i : Instr) : Prop :=
  i.mnemonic ∈ [.sty, .tya, .cpy] ∨ i.mode ∈ [.zeroPageY, .absoluteY, .indirectY]

/-- R36: the instructions that call `SetNZ` or write Z and N otherwise. -/
def writesNZ (i : Instr) : Prop :=
  i.mnemonic ∈ [.lda, .ldx, .ldy, .tax, .tay, .txa, .tya, .adc, .sbc, .inx, .and, .ora, .eor, .bit, .cmp, .cpx, .cpy] ∨
    i.mnemonic ∈ shifts

/-- R36: the instructions that write C. -/
def writesC (i : Instr) : Prop := i.mnemonic ∈ [.adc, .sbc, .clc, .sec, .cmp, .cpx, .cpy] ∨ i.mnemonic ∈ shifts

/-- R36: the instructions that read C. -/
def readsC (i : Instr) : Prop := i.mnemonic ∈ [.adc, .sbc, .rol, .ror, .bcc, .bcs]

/-- R36: the instructions that write V. -/
def writesV (i : Instr) : Prop := i.mnemonic ∈ [.adc, .sbc, .clv, .bit]

/-- The instructions that store to memory (R69, R148): the stores, and the shifts outside accumulator mode. -/
def storesToMemory (i : Instr) : Prop :=
  i.mnemonic ∈ [.sta, .stx, .sty] ∨ (i.mnemonic ∈ shifts ∧ i.mode ≠ .accumulator)

/-- An outcome with its next state changed. -/
def mapNext (f : State → State) : Host.Outcome State Fault Refusal → Host.Outcome State Fault Refusal
  | .next t => .next (f t)
  | .fault r => .fault r
  | .refused r => .refused r

/-- An instruction does not depend on a part of the state: with that part set to another value first (`put`), the same
happens, and the part keeps that value unless the instruction writes it. -/
def IgnoresPart (i : Instr) (s : State) (put : State → State) (written : Prop) : Prop :=
  (written → exec i (put s) = exec i s) ∧ (¬ written → exec i (put s) = mapNext put (exec i s))

/-- R37: the value that a flag-setting instruction has written, in the state after it: to A, to X, to Y, or, for a shift
on memory, to the memory cell. -/
def WrittenValue (i : Instr) (s t : State) (v : Byte) : Prop :=
  (writesA i ∧ v = t.a) ∨ (writesX i ∧ v = t.x) ∨ (writesY i ∧ v = t.y) ∨
    (i.mnemonic ∈ shifts ∧ i.mode ≠ .accumulator ∧ ∃ ea, effectiveAddress i.operand s = .ok ea ∧ v = t.mem.read ea)

/-- The instructions that leave Z and N unchanged (R37): stores, flag set and clear instructions, JMP, branches, BRK. -/
def leavesNZ : List Mnemonic :=
  [.sta, .stx, .sty, .clc, .sec, .cli, .sei, .cld, .sed, .clv, .jmp, .bcc, .bcs, .bpl, .bmi, .bvc, .bvs, .bne, .beq, .brk]

/-- The bytes at PC and after it. -/
def bytesAtPc (s : State) : List Byte := [s.mem.read s.pc, s.mem.read (s.pc + 1), s.mem.read (s.pc + 2)]

/-- Bytes as one number, the first byte lowest. -/
def numberOf : List Byte → Nat
  | [] => 0
  | b :: bs => b.toNat + 256 * numberOf bs

/-- The little-endian word of two bytes, as a number. -/
def wordOf (lo hi : Byte) : Nat := lo.toNat + 256 * hi.toNat

/-- `Resolve` gives an address, and its number is `n`. -/
def Resolves (s : State) (m : Mode) (n : Nat) : Prop := ∃ ea : Word, resolve m s = .ok ea ∧ ea.toNat = n

/-- The byte at an address number. -/
def byteAt (s : State) (n : Nat) : Byte := s.mem.read (BitVec.ofNat 16 n)

/-- The pointer in page zero at `n` (R133): its high byte is at `n + 1`, and for `n = 0xFF` where `ZP_PTR_WRAP` says. -/
def zeroPagePointer (s : State) (n : Nat) : Nat :=
  wordOf (byteAt s n)
    (if n = 0xFF then (if s.cfg.zpPtrWrap = .pageZero then byteAt s 0x0000 else byteAt s 0x0100) else byteAt s (n + 1))

/-- The opcode bytes of R98: DEX, DEY, DEC, INY, INC. -/
def opcodesOfR98 : List Byte := [0xCA, 0x88, 0xC6, 0xD6, 0xCE, 0xDE, 0xC8, 0xE6, 0xF6, 0xEE, 0xFE]

/-- The opcode bytes of R99: JSR, RTS, RTI, PHA, PLA, PHP, PLP, TSX, TXS, NOP. -/
def opcodesOfR99 : List Byte := [0x20, 0x60, 0x40, 0x48, 0x68, 0x08, 0x28, 0xBA, 0x9A, 0xEA]

/-- `n` steps in a row, ending at the first that answers no next state. -/
def steps : Nat → State → Host.Outcome State Fault Refusal
  | 0, s => .next s
  | n + 1, s =>
    match step s with
    | .next t => steps n t
    | .fault r => .fault r
    | .refused r => .refused r

/-- The steps 1 to `m` from `s` are made and none of them ends in the phase Halted. -/
def NoHaltWithin (m : Nat) (s : State) : Prop :=
  ∀ j, 0 < j → j ≤ m → ∃ u, steps j s = .next u ∧ ∀ r, u.phase ≠ .halted r

/-- Among the first `n` steps from `s` one ends in the phase Halted, and the first that does ends in `t`, halted for
`r`. -/
def HaltsFirst (n : Nat) (s : State) (r : HaltReason) (t : State) : Prop :=
  ∃ k, k < n ∧ steps (k + 1) s = .next t ∧ t.phase = .halted r ∧ NoHaltWithin k s

/-- `n` runs of one instruction in a row. -/
def repeated (i : Instr) : Nat → State → Host.Outcome State Fault Refusal
  | 0, s => .next s
  | n + 1, s =>
    match exec i s with
    | .next t => repeated i n t
    | .fault r => .fault r
    | .refused r => .refused r

end Sys2Proof.Claims

open Sys2Proof Sys2Proof.Machine Sys2Proof.Claims

/-! ## Encoding and the table -/

/-- Decoding and encoding agree in both directions, for all 130 instructions and every operand value: bytes decode to `i`
with the rest `rest` exactly when they are the encoding of `i` followed by `rest`. So no bit is dropped, no word has two
meanings, and no two instructions share an encoding (R90, R92, R93). -/
def Obligations.DecodeAndEncodeAgree : Prop :=
  ∀ (bs rest : List Byte) (i : Instr), decode bs = .ok (i, rest) ↔ bs = encode i ++ rest

/-- Words written out from R96, R100 and the §8 program (R92) decode to the instructions they stand for. -/
def Obligations.SampleWordsDecode : Prop :=
  decode [0x4C, 0x04, 0x80] = .ok (.jmpAbsolute 0x8004, []) ∧
  decode [0x00] = .ok (.brk, []) ∧
  decode [0xA9, 0x01] = .ok (.ldaImmediate 0x01, []) ∧
  decode [0x6C, 0x20, 0x01] = .ok (.jmpIndirect 0x0120, []) ∧
  decode [0x71, 0x86] = .ok (.adcIndirectY 0x86, []) ∧
  decode [0x1E, 0xF0, 0xFF] = .ok (.aslAbsoluteX 0xFFF0, []) ∧
  decode [0x96, 0x10] = .ok (.stxZeroPageY 0x10, []) ∧
  decode [0xB0, 0xF0] = .ok (.bcs 0xF0, []) ∧
  decode [0xE8] = .ok (.inx, []) ∧
  decode [0x2C, 0x34, 0x12] = .ok (.bitAbsolute 0x1234, []) ∧
  decode [0xE0, 0x05] = .ok (.cpxImmediate 0x05, []) ∧
  decode [0xD0, 0xF9] = .ok (.bne 0xF9, []) ∧
  decode [0xCA] = .error (.noEntry 0xCA)

/-- The table has one row for each opcode byte it holds, and as many rows in each group as R96, R100 and R101 count:
84 + 26 + 14 + 6 = 130. The 126 other byte values are the 21 of R98 and R99 and the 105 that R97 counts. -/
def Obligations.TableCountsAndUniqueness : Prop :=
  rows.Pairwise (fun r q => r.opcode ≠ q.opcode) ∧ rows.length = 130 ∧
  (rows.filter fun r => r.group == .base).length = 84 ∧ (rows.filter fun r => r.group == .logic).length = 26 ∧
  (rows.filter fun r => r.group == .compare).length = 14 ∧ (rows.filter fun r => r.group == .branch).length = 6 ∧
  ((List.range 256).filter fun k =>
    (tableRow (BitVec.ofNat 8 k)).isNone && !(opcodesOfR98 ++ opcodesOfR99).contains (BitVec.ofNat 8 k)).length = 105

/-- The table of a configuration (R7, R42, R97, R100, R270): a byte has an entry exactly when it is the opcode of an
instruction that the configuration holds, a row of an optional group if its parameter is true and a base row unless
`BASE_OMIT` names it; the entry is the instruction's own. -/
def Obligations.TableOfEachConfiguration : Prop :=
  ∀ (cfg : Config) (op : Byte),
    ((cfg.entry op).isSome = true ↔ ∃ i : Instr, i.opcode = op ∧ inTable cfg i) ∧
    ∀ (row : Row) (i : Instr), cfg.entry op = some row → i.opcode = op →
      row.opcode = op ∧ row.mnemonic = i.mnemonic ∧ row.mode = i.mode ∧ row.length = (encode i).length

/-! ## The engine -/

/-- A step runs the decoded instruction: in the phase Running, when the bytes at PC decode to an instruction that the
configuration holds, and its bytes do not cross the top of memory under `TOP_POLICY = Fault`, `step` is `exec` of that
instruction at that state, with nothing added around it (R300, R302, R303, R304). `exec` itself holds the advance. -/
def Obligations.StepRunsTheFetchedInstruction : Prop :=
  ∀ (s : State) (i : Instr) (rest : List Byte), s.phase = .running → decode (bytesAtPc s) = .ok (i, rest) →
    i.wf s.cfg = true → (s.cfg.topPolicy = .fault → s.pc.toNat + i.length ≤ 0x10000) → step s = exec i s

/-- A byte with no entry in the configuration's table halts the run with `UnimplementedOpcode`, carrying the byte and the
PC at fetch, and changes nothing else, wherever it stands (R97, R302, R331). -/
def Obligations.AbsentOpcodeHalts : Prop :=
  ∀ s : State, s.phase = .running → (∀ i : Instr, i.opcode = s.mem.read s.pc → ¬ inTable s.cfg i) →
    step s = .next { s with phase := .halted (.unimplementedOpcode (s.mem.read s.pc) s.pc) }

/-- DEX, DEY, DEC, INY and INC halt with `UnimplementedOpcode` in every configuration (R98). -/
def Obligations.DecrementAndYIncrementHalt : Prop :=
  ∀ s : State, s.phase = .running → s.mem.read s.pc ∈ opcodesOfR98 →
    step s = .next { s with phase := .halted (.unimplementedOpcode (s.mem.read s.pc) s.pc) }

/-- The stack instructions and NOP halt with `UnimplementedOpcode` in every configuration (R99). That they are absent is
the spec's decision D7. -/
def Obligations.StackInstructionsAndNopHalt : Prop :=
  ∀ s : State, s.phase = .running → s.mem.read s.pc ∈ opcodesOfR99 →
    step s = .next { s with phase := .halted (.unimplementedOpcode (s.mem.read s.pc) s.pc) }

/-- When a step raises `OutOfRangeAccess` (R332): exactly under `TOP_POLICY = Fault`, when an operand byte of a table
entry lies above 0xFFFF, or when a JMP-indirect pointer is 0xFFFF. It carries 0xFFFF and changes nothing else. That the
condition halts inside a step is the spec's decision D21. -/
def Obligations.OutOfRangeAccessExactlyWhen : Prop :=
  ∀ s : State, s.phase = .running →
    ((∃ t a, step s = .next t ∧ t.phase = .halted (.outOfRangeAccess a)) ↔
      s.cfg.topPolicy = .fault ∧ ∃ row, s.cfg.entry (s.mem.read s.pc) = some row ∧
        (0x10000 < s.pc.toNat + row.length ∨
          (row.opcode = 0x6C ∧ s.mem.read (s.pc + 1) = 0xFF ∧ s.mem.read (s.pc + 2) = 0xFF))) ∧
    ∀ t a, step s = .next t → t.phase = .halted (.outOfRangeAccess a) →
      t = { s with phase := .halted (.outOfRangeAccess 0xFFFF) }

/-- Phase gating (R301, R348): in the phase Halted any number of steps changes nothing; before the first reset a step is
refused. The refusal is the spec's decision D11. -/
def Obligations.HaltedIsTerminalAndNotStartedRefuses : Prop :=
  (∀ (s : State) (r : HaltReason), s.phase = .halted r → ∀ n : Nat, steps n s = .next s) ∧
  ∀ s : State, s.phase = .notStarted → step s = .refused .hostProtocol

/-- Every step of a running machine answers a next state, of one of R311's three kinds: a normal instruction, which stays
Running; BRK, which changes PC and the phase only; a raise, which changes the phase only, so that no write of the step
takes effect (R306, R311, R338). No step changes the configuration, and with it the table (R42, R369).
BRK's PC plus 1 rests on the spec's decisions D17 (the advance precedes the halt) and D8 (it wraps), the effects of a raise
on D10 and D21. That the configuration is a field of the state and a halt a next state are the model's own choices (log
entries 1 and 4). -/
def Obligations.RunningStepAnswersOneOfThree : Prop :=
  ∀ s : State, s.phase = .running → ∃ t, step s = .next t ∧ t.cfg = s.cfg ∧
    (t.phase = .running ∨
      (s.mem.read s.pc = 0x00 ∧ t = { s with pc := s.pc + 1, phase := .halted .brk }) ∨
      ∃ r, r ≠ .brk ∧ t = { s with phase := .halted r })

/-- The advance (R305), in numbers: PC moves by the length, modulo 2^16, for every instruction that transfers no control,
for a branch that is not taken, and for a branch or a JMP to its own address (R204, R207).
That the advance wraps past 0xFFFF is the spec's decision D8. -/
def Obligations.AdvanceWrapsModulo : Prop :=
  ∀ (i : Instr) (s : State), writesPc i.mnemonic s.p = false ∨
      (∃ rel, i.operand = .relative rel ∧ target rel s = s.pc.toNat) ∨
      (i.mnemonic = .jmp ∧ effectiveAddress i.operand s = .ok s.pc) →
    ∃ t, exec i s = .next t ∧ t.pc.toNat = (s.pc.toNat + i.length) % 0x10000

/-! ## The adder -/

/-- ADC (R161): `adcImmediate`, `adcZeroPage`, `adcZeroPageX`, `adcAbsolute`, `adcAbsoluteX`, `adcAbsoluteY`,
`adcIndirectX`, `adcIndirectY`.
Forms, raises and effect; every register, flag and byte not named keeps its value. -/
def Obligations.AdcAddsWithCarry : Prop :=
  ReadsOperand .adc [(.immediate, 0x69), (.zeroPage, 0x65), (.zeroPageX, 0x75), (.absolute, 0x6D), (.absoluteX, 0x7D),
     (.absoluteY, 0x79), (.indirectX, 0x61), (.indirectY, 0x71)] adds

/-- SBC (R162), the adder on the operand's complement 0xFF - M: `sbcImmediate`, `sbcZeroPage`, `sbcZeroPageX`, `sbcAbsolute`, `sbcAbsoluteX`, `sbcAbsoluteY`,
`sbcIndirectX`, `sbcIndirectY`. -/
def Obligations.SbcAddsTheComplement : Prop :=
  ReadsOperand .sbc [(.immediate, 0xE9), (.zeroPage, 0xE5), (.zeroPageX, 0xF5), (.absolute, 0xED), (.absoluteX, 0xFD),
     (.absoluteY, 0xF9), (.indirectX, 0xE1), (.indirectY, 0xF1)]
    fun s M pc' => adds s (BitVec.ofNat 8 (0xFF - M.toNat)) pc'

/-- The three laws of the adder (R163) over the forms of ADC and SBC. ADC adds M and the carry, and C is the carry out of
bit 7. V says that both addends (for SBC, A and ~M) have one sign and the result the other. SBC subtracts M and the
borrow, C means no borrow, V that the exact signed difference is out of range.
R163 is the spec's own inference from R161 and R162. -/
def Obligations.AdderLaws : Prop :=
  (∀ (i : Instr) (s t : State) (M : Byte), i.mnemonic = .adc → DataOperand i s M → exec i s = .next t →
    t.a.toNat = (s.a.toNat + M.toNat + bit s.p.c) % 256 ∧
    (t.p.c = true ↔ 255 < s.a.toNat + M.toNat + bit s.p.c) ∧
    t.p.v = ((s.a ^^^ t.a) &&& (M ^^^ t.a)).getLsbD 7) ∧
  (∀ (i : Instr) (s t : State) (M : Byte), i.mnemonic = .sbc → DataOperand i s M → exec i s = .next t →
    (t.a.toNat : Int) = ((s.a.toNat : Int) - M.toNat - (1 - bit s.p.c)) % 256 ∧
    (t.p.c = true ↔ 0 ≤ (s.a.toNat : Int) - M.toNat - (1 - bit s.p.c)) ∧
    t.p.v = ((s.a ^^^ t.a) &&& (~~~M ^^^ t.a)).getLsbD 7 ∧
    (t.p.v = true ↔ s.a.toInt - M.toInt - (1 - bit s.p.c) < -128 ∨ 127 < s.a.toInt - M.toInt - (1 - bit s.p.c)))

/-! ## Shifts and rotates -/

/-- ASL (R181): `aslAccumulator`, `aslZeroPage`, `aslZeroPageX`, `aslAbsolute`, `aslAbsoluteX`. -/
def Obligations.AslShiftsLeft : Prop :=
  Shifts .asl [(.accumulator, 0x0A), (.zeroPage, 0x06), (.zeroPageX, 0x16), (.absolute, 0x0E),
     (.absoluteX, 0x1E)]
    fun v _ => (BitVec.ofNat 8 (2 * v.toNat), v.getLsbD 7)

/-- LSR (R182): `lsrAccumulator`, `lsrZeroPage`, `lsrZeroPageX`, `lsrAbsolute`, `lsrAbsoluteX`. -/
def Obligations.LsrShiftsRight : Prop :=
  Shifts .lsr [(.accumulator, 0x4A), (.zeroPage, 0x46), (.zeroPageX, 0x56), (.absolute, 0x4E),
     (.absoluteX, 0x5E)]
    fun v _ => (BitVec.ofNat 8 (v.toNat / 2), v.getLsbD 0)

/-- ROL (R183): `rolAccumulator`, `rolZeroPage`, `rolZeroPageX`, `rolAbsolute`, `rolAbsoluteX`. -/
def Obligations.RolRotatesLeftThroughCarry : Prop :=
  Shifts .rol [(.accumulator, 0x2A), (.zeroPage, 0x26), (.zeroPageX, 0x36), (.absolute, 0x2E),
     (.absoluteX, 0x3E)]
    fun v cin => (BitVec.ofNat 8 (2 * v.toNat + bit cin), v.getLsbD 7)

/-- ROR (R184): `rorAccumulator`, `rorZeroPage`, `rorZeroPageX`, `rorAbsolute`, `rorAbsoluteX`. -/
def Obligations.RorRotatesRightThroughCarry : Prop :=
  Shifts .ror [(.accumulator, 0x6A), (.zeroPage, 0x66), (.zeroPageX, 0x76), (.absolute, 0x6E),
     (.absoluteX, 0x7E)]
    fun v cin => (BitVec.ofNat 8 (v.toNat / 2 + 128 * bit cin), v.getLsbD 0)

/-- Nine ROL A in a row, and nine ROR A in a row, give A and C their values back (R185, the spec's inference from R183
and R184). -/
def Obligations.NineRotationsRestore : Prop :=
  ∀ s : State, ∀ i ∈ [Instr.rolAccumulator, Instr.rorAccumulator],
    ∃ t, repeated i 9 s = .next t ∧ t.a = s.a ∧ t.p.c = s.p.c ∧ t.x = s.x ∧ t.y = s.y ∧ t.mem = s.mem

/-! ## Control transfer -/

/-- BCC (R200): `bcc`. That a taken branch to its own address falls through is the spec's inference (R204). -/
def Obligations.BccBranchesOnCarryClear : Prop := Branches .bcc 0x90 fun p => !p.c

/-- BCS (R201): `bcs`. The case of its own address is the spec's inference (R204). -/
def Obligations.BcsBranchesOnCarrySet : Prop := Branches .bcs 0xB0 fun p => p.c

/-- BPL (R278) and BMI (R279): `bpl`, `bmi`. The case of its own address is the spec's inference (R204). -/
def Obligations.BplAndBmiBranchOnNegative : Prop :=
  (Branches .bpl 0x10 fun p => !p.n) ∧ Branches .bmi 0x30 fun p => p.n

/-- BVC (R280) and BVS (R281): `bvc`, `bvs`. The case of its own address is the spec's inference (R204). -/
def Obligations.BvcAndBvsBranchOnOverflow : Prop :=
  (Branches .bvc 0x50 fun p => !p.v) ∧ Branches .bvs 0x70 fun p => p.v

/-- BNE (R282) and BEQ (R283): `bne`, `beq`. The case of its own address is the spec's inference (R204). -/
def Obligations.BneAndBeqBranchOnZero : Prop :=
  (Branches .bne 0xD0 fun p => !p.z) ∧ Branches .beq 0xF0 fun p => p.z

/-- JMP absolute (R205, R207): `jmpAbsolute`, 0x4C, sets PC to its operand and writes nothing else; it raises
`OutOfRangeAccess` at pc0 ≥ 0xFFFE under `TOP_POLICY = Fault`, and nothing else. That a jump to its own address falls through
is the spec's inference (R207). -/
def Obligations.JmpAbsoluteSetsPc : Prop :=
  (∀ addr : Word, encode (.jmpAbsolute addr) = [0x4C, BitVec.ofNat 8 addr.toNat, BitVec.ofNat 8 (addr.toNat / 256)]) ∧
  JumpRaises (.jmpAbsolute 0) (fun s => 0xFFFE ≤ s.pc.toNat) ∧
  ∀ (addr : Word) (s : State), JumpsTo (.jmpAbsolute addr) s addr

/-- JMP indirect (R206, R207, R141): `jmpIndirect`, 0x6C, sets PC to the little-endian word at its pointer, the high byte
from the next address even across a page. It raises `OutOfRangeAccess` at pc0 ≥ 0xFFFE or with its pointer at 0xFFFF, under
`TOP_POLICY = Fault`, and nothing else; under `Wrap` the pointer's high byte is at 0x0000. That a jump to its own address
falls through is the spec's inference (R207). -/
def Obligations.JmpIndirectSetsPc : Prop :=
  (∀ ptr : Word, encode (.jmpIndirect ptr) = [0x6C, BitVec.ofNat 8 ptr.toNat, BitVec.ofNat 8 (ptr.toNat / 256)]) ∧
  JumpRaises (.jmpIndirect 0) (fun s => 0xFFFE ≤ s.pc.toNat ∨
    (s.mem.read (s.pc + 1) = 0xFF ∧ s.mem.read (s.pc + 2) = 0xFF)) ∧
  ∀ (ptr : Word) (s : State),
    (ptr ≠ 0xFFFF ∨ s.cfg.topPolicy = .wrap → ∃ w : Word,
      w.toNat = wordOf (s.mem.read ptr) (s.mem.read (if ptr = 0xFFFF then 0x0000 else ptr + 1)) ∧
      JumpsTo (.jmpIndirect ptr) s w) ∧
    (ptr = 0xFFFF ∧ s.cfg.topPolicy = .fault →
      exec (.jmpIndirect ptr) s = .next { s with phase := .halted (.outOfRangeAccess 0xFFFF) })

/-! ## Loads, stores, transfers -/

/-- LDA (R220): `ldaImmediate`, `ldaZeroPage`, `ldaZeroPageX`, `ldaAbsolute`, `ldaAbsoluteX`, `ldaAbsoluteY`,
`ldaIndirectX`, `ldaIndirectY`. -/
def Obligations.LdaLoadsA : Prop :=
  ReadsOperand .lda [(.immediate, 0xA9), (.zeroPage, 0xA5), (.zeroPageX, 0xB5), (.absolute, 0xAD), (.absoluteX, 0xBD),
     (.absoluteY, 0xB9), (.indirectX, 0xA1), (.indirectY, 0xB1)]
    fun s M pc' => { s with a := M, p := nz s.p M, pc := pc' }

/-- LDX (R221): `ldxImmediate`, `ldxZeroPage`, `ldxZeroPageY`, `ldxAbsolute`, `ldxAbsoluteY`. -/
def Obligations.LdxLoadsX : Prop :=
  ReadsOperand .ldx [(.immediate, 0xA2), (.zeroPage, 0xA6), (.zeroPageY, 0xB6), (.absolute, 0xAE), (.absoluteY, 0xBE)]
    fun s M pc' => { s with x := M, p := nz s.p M, pc := pc' }

/-- LDY (R222): `ldyImmediate`, `ldyZeroPage`, `ldyZeroPageX`, `ldyAbsolute`, `ldyAbsoluteX`. -/
def Obligations.LdyLoadsY : Prop :=
  ReadsOperand .ldy [(.immediate, 0xA0), (.zeroPage, 0xA4), (.zeroPageX, 0xB4), (.absolute, 0xAC), (.absoluteX, 0xBC)]
    fun s M pc' => { s with y := M, p := nz s.p M, pc := pc' }

/-- STA (R223), STX (R224), STY (R225): `staZeroPage`, `staZeroPageX`, `staAbsolute`, `staAbsoluteX`, `staAbsoluteY`, `staIndirectX`,
`staIndirectY`, `stxZeroPage`, `stxZeroPageY`, `stxAbsolute`, `styZeroPage`, `styZeroPageX`,
`styAbsolute`. -/
def Obligations.StoresWriteTheRegister : Prop :=
  StoresByte .sta [(.zeroPage, 0x85), (.zeroPageX, 0x95), (.absolute, 0x8D), (.absoluteX, 0x9D), (.absoluteY, 0x99),
     (.indirectX, 0x81), (.indirectY, 0x91)]
    (·.a) ∧
  StoresByte .stx [(.zeroPage, 0x86), (.zeroPageY, 0x96), (.absolute, 0x8E)] (·.x) ∧
  StoresByte .sty [(.zeroPage, 0x84), (.zeroPageX, 0x94), (.absolute, 0x8C)] (·.y)

/-- TAX (R226), TAY (R227), TXA (R228), TYA (R229): `tax`, `tay`, `txa`, `tya`. -/
def Obligations.TransfersMoveAndSetNZ : Prop :=
  (Implied .tax 0xAA fun s pc' => { s with x := s.a, p := nz s.p s.a, pc := pc' }) ∧
  (Implied .tay 0xA8 fun s pc' => { s with y := s.a, p := nz s.p s.a, pc := pc' }) ∧
  (Implied .txa 0x8A fun s pc' => { s with a := s.x, p := nz s.p s.x, pc := pc' }) ∧
  (Implied .tya 0x98 fun s pc' => { s with a := s.y, p := nz s.p s.y, pc := pc' })

/-! ## Flag instructions, INX, BRK -/

/-- CLC, SEC, CLI, SEI, CLD, SED, CLV (R250 to R256): `clc`, `sec`, `cli`, `sei`, `cld`, `sed`, `clv`. -/
def Obligations.FlagInstructionsWriteOneFlag : Prop :=
  (Implied .clc 0x18 fun s pc' => { s with p := { s.p with c := false }, pc := pc' }) ∧
  (Implied .sec 0x38 fun s pc' => { s with p := { s.p with c := true }, pc := pc' }) ∧
  (Implied .cli 0x58 fun s pc' => { s with p := { s.p with i := false }, pc := pc' }) ∧
  (Implied .sei 0x78 fun s pc' => { s with p := { s.p with i := true }, pc := pc' }) ∧
  (Implied .cld 0xD8 fun s pc' => { s with p := { s.p with d := false }, pc := pc' }) ∧
  (Implied .sed 0xF8 fun s pc' => { s with p := { s.p with d := true }, pc := pc' }) ∧
  (Implied .clv 0xB8 fun s pc' => { s with p := { s.p with v := false }, pc := pc' })

/-- INX (R257): `inx`. -/
def Obligations.InxIncrementsX : Prop :=
  Implied .inx 0xE8 fun s pc' =>
    { s with x := BitVec.ofNat 8 (s.x.toNat + 1), p := nz s.p (BitVec.ofNat 8 (s.x.toNat + 1)), pc := pc' }

/-- BRK (R258, R307): `brk` changes no register but PC, no flag and no byte; the phase becomes `Halted(Break)`, with PC
behind the instruction. It raises nothing. That the advance precedes the halt is the spec's decision D17. -/
def Obligations.BrkHaltsAfterItsAdvance : Prop :=
  HasForms .brk [(.noneAddressing, 0x00)] ∧ RaisesOnly .brk (fun _ r => r = .brk) ∧
  ∀ (i : Instr) (s : State), i.mnemonic = .brk →
    ∃ pc' : Word, NextPc i s pc' ∧ exec i s = .next { s with pc := pc', phase := .halted .brk }

/-! ## The optional groups -/

/-- AND (R271), ORA (R272), EOR (R273): `andImmediate`, `andZeroPage`, `andZeroPageX`, `andAbsolute`, `andAbsoluteX`, `andAbsoluteY`,
`andIndirectX`, `andIndirectY`, `oraImmediate`, `oraZeroPage`, `oraZeroPageX`, `oraAbsolute`,
`oraAbsoluteX`, `oraAbsoluteY`, `oraIndirectX`, `oraIndirectY`, `eorImmediate`, `eorZeroPage`,
`eorZeroPageX`, `eorAbsolute`, `eorAbsoluteX`, `eorAbsoluteY`, `eorIndirectX`, `eorIndirectY`. -/
def Obligations.LogicCombinesWithA : Prop :=
  (ReadsOperand .and [(.immediate, 0x29), (.zeroPage, 0x25), (.zeroPageX, 0x35), (.absolute, 0x2D), (.absoluteX, 0x3D),
     (.absoluteY, 0x39), (.indirectX, 0x21), (.indirectY, 0x31)]
    fun s M pc' => { s with a := s.a &&& M, p := nz s.p (s.a &&& M), pc := pc' }) ∧
  (ReadsOperand .ora [(.immediate, 0x09), (.zeroPage, 0x05), (.zeroPageX, 0x15), (.absolute, 0x0D), (.absoluteX, 0x1D),
     (.absoluteY, 0x19), (.indirectX, 0x01), (.indirectY, 0x11)]
    fun s M pc' => { s with a := s.a ||| M, p := nz s.p (s.a ||| M), pc := pc' }) ∧
  (ReadsOperand .eor [(.immediate, 0x49), (.zeroPage, 0x45), (.zeroPageX, 0x55), (.absolute, 0x4D), (.absoluteX, 0x5D),
     (.absoluteY, 0x59), (.indirectX, 0x41), (.indirectY, 0x51)]
    fun s M pc' => { s with a := s.a ^^^ M, p := nz s.p (s.a ^^^ M), pc := pc' })

/-- BIT (R274): `bitZeroPage`, `bitAbsolute`. -/
def Obligations.BitTestsTheOperand : Prop :=
  ReadsOperand .bit [(.zeroPage, 0x24), (.absolute, 0x2C)]
    fun s M pc' => { s with p := { s.p with z := decide (s.a &&& M = 0), n := M.getLsbD 7, v := M.getLsbD 6 }, pc := pc' }

/-- CMP (R275), CPX (R276), CPY (R277): `cmpImmediate`, `cmpZeroPage`, `cmpZeroPageX`, `cmpAbsolute`, `cmpAbsoluteX`, `cmpAbsoluteY`,
`cmpIndirectX`, `cmpIndirectY`, `cpxImmediate`, `cpxZeroPage`, `cpxAbsolute`, `cpyImmediate`,
`cpyZeroPage`, `cpyAbsolute`. -/
def Obligations.ComparesSetCZN : Prop :=
  ReadsOperand .cmp [(.immediate, 0xC9), (.zeroPage, 0xC5), (.zeroPageX, 0xD5), (.absolute, 0xCD), (.absoluteX, 0xDD),
     (.absoluteY, 0xD9), (.indirectX, 0xC1), (.indirectY, 0xD1)]
    (compares (·.a)) ∧
  ReadsOperand .cpx [(.immediate, 0xE0), (.zeroPage, 0xE4), (.absolute, 0xEC)] (compares (·.x)) ∧
  ReadsOperand .cpy [(.immediate, 0xC0), (.zeroPage, 0xC4), (.absolute, 0xCC)] (compares (·.y))

/-! ## Frames, over all instructions -/

/-- The two invariants of R37: after every flag-setting instruction Z says whether the value it wrote is zero and N is its
bit 7 (for a shift on memory, the value of the cell); stores, flag set and clear instructions, JMP, branches and BRK leave
Z and N unchanged. -/
def Obligations.FlagsReflectTheWrittenValue : Prop :=
  ∀ (i : Instr) (s : State), ∃ t, exec i s = .next t ∧
    (∀ v, WrittenValue i s t v → t.p.z = decide (v = 0) ∧ t.p.n = v.getLsbD 7) ∧
    (i.mnemonic ∈ leavesNZ → t.p.z = s.p.z ∧ t.p.n = s.p.n)

/-- The frame of registers and flags: each is written by the instructions that R31, R32, R33 and R36 list and by no
other. B is written by none (R38). -/
def Obligations.OnlyTheirWritersWriteRegistersAndFlags : Prop :=
  ∀ (i : Instr) (s t : State), exec i s = .next t →
    (¬ writesA i → t.a = s.a) ∧ (¬ writesX i → t.x = s.x) ∧ (¬ writesY i → t.y = s.y) ∧
    (¬ writesC i → t.p.c = s.p.c) ∧ (¬ writesNZ i → t.p.z = s.p.z ∧ t.p.n = s.p.n) ∧
    (i.mnemonic ∉ [.cli, .sei] → t.p.i = s.p.i) ∧ (i.mnemonic ∉ [.cld, .sed] → t.p.d = s.p.d) ∧
    (¬ writesV i → t.p.v = s.p.v) ∧ t.p.b = s.p.b

/-- The frame of memory (R62, R69, R148): an instruction that stores nothing leaves every byte as it was; a store or a
shift on memory leaves every byte as it was but the one at its effective address. -/
def Obligations.MemoryChangesOnlyAtTheEffectiveAddress : Prop :=
  ∀ (i : Instr) (s t : State), exec i s = .next t →
    (¬ storesToMemory i → ∀ b : Word, t.mem.read b = s.mem.read b) ∧
    (storesToMemory i → ∃ ea, effectiveAddress i.operand s = .ok ea ∧ ∀ b : Word, b ≠ ea → t.mem.read b = s.mem.read b)

/-- A, X and Y are read by the instructions that R31, R32 and R33 list, themselves or in their address, and by no
other: for any other instruction a run from a state with another value there differs in that register only. -/
def Obligations.OnlyTheirReadersReadRegisters : Prop :=
  ∀ (i : Instr) (s : State) (v : Byte),
    (¬ readsA i → IgnoresPart i s (fun u => { u with a := v }) (writesA i)) ∧
    (¬ readsX i → IgnoresPart i s (fun u => { u with x := v }) (writesX i)) ∧
    (¬ readsY i → IgnoresPart i s (fun u => { u with y := v }) (writesY i))

/-- The flags are read by the instructions that R36 lists and by no other. I, D and B are read by nothing: D does not
reach ADC and SBC (R164), and I masks nothing (R336). -/
def Obligations.OnlyTheirReadersReadFlags : Prop :=
  ∀ (i : Instr) (s : State) (f : Bool),
    (¬ readsC i → IgnoresPart i s (fun u => { u with p := { u.p with c := f } }) (writesC i)) ∧
    (i.mnemonic ∉ [.beq, .bne] → IgnoresPart i s (fun u => { u with p := { u.p with z := f } }) (writesNZ i)) ∧
    IgnoresPart i s (fun u => { u with p := { u.p with i := f } }) (i.mnemonic ∈ [.cli, .sei]) ∧
    IgnoresPart i s (fun u => { u with p := { u.p with d := f } }) (i.mnemonic ∈ [.cld, .sed]) ∧
    IgnoresPart i s (fun u => { u with p := { u.p with b := f } }) False ∧
    (i.mnemonic ∉ [.bvc, .bvs] → IgnoresPart i s (fun u => { u with p := { u.p with v := f } }) (writesV i)) ∧
    (i.mnemonic ∉ [.bmi, .bpl] → IgnoresPart i s (fun u => { u with p := { u.p with n := f } }) (writesNZ i))

/-! ## The resolver -/

/-- The effective address that the meanings use, from the decoded operand, is what `Resolve(mode, pc0)` of R130 to R145
reads from memory, and a decoded literal or displacement is the byte there (R134, R144, R303; log entry 6). -/
def Obligations.ResolverAgreesWithDecodedOperand : Prop :=
  ∀ (s : State) (i : Instr), fetch s = .ok i → i.mode ≠ .noneAddressing → i.mode ≠ .accumulator →
    resolve i.mode s = effectiveAddress i.operand s ∧
    (∀ imm, i.operand = .immediate imm → ∃ ea, resolve i.mode s = .ok ea ∧ imm = s.mem.read ea) ∧
    (∀ rel, i.operand = .relative rel → ∃ ea, resolve i.mode s = .ok ea ∧ rel = s.mem.read ea)

/-- The addressing modes in numbers (R133 to R144), for an instruction whose operand bytes `b1` and `b2` lie inside the
address space: which sums wrap at 256, which at 65536, and which byte of a pointer comes from where. -/
def Obligations.AddressingModesInNumbers : Prop :=
  ∀ s : State, s.pc.toNat + 2 ≤ 0xFFFF →
    let b1 := (s.mem.read (s.pc + 1)).toNat
    let w := wordOf (s.mem.read (s.pc + 1)) (s.mem.read (s.pc + 2))
    Resolves s .immediate (s.pc.toNat + 1) ∧ Resolves s .relative (s.pc.toNat + 1) ∧
    Resolves s .zeroPage b1 ∧ Resolves s .zeroPageX ((b1 + s.x.toNat) % 256) ∧
    Resolves s .zeroPageY ((b1 + s.y.toNat) % 256) ∧
    Resolves s .absolute w ∧ Resolves s .absoluteX ((w + s.x.toNat) % 65536) ∧
    Resolves s .absoluteY ((w + s.y.toNat) % 65536) ∧
    (w ≠ 0xFFFF → Resolves s .indirect (wordOf (byteAt s w) (byteAt s (w + 1)))) ∧
    Resolves s .indirectX (zeroPagePointer s ((b1 + s.x.toNat) % 256)) ∧
    Resolves s .indirectY ((zeroPagePointer s b1 + s.y.toNat) % 65536)

/-- `MemRead16` (R63) and the operand reads (R131, R132) at the top of memory, under each `TOP_POLICY`. -/
def Obligations.TopOfMemoryPolicies : Prop :=
  (∀ (pol : TopPolicy) (m : Memory) (a : Word), a ≠ 0xFFFF →
    ∃ w : Word, m.read16 pol a = .ok w ∧ w.toNat = wordOf (m.read a) (m.read (a + 1))) ∧
  (∀ m : Memory, m.read16 .fault 0xFFFF = .error (.outOfRangeAccess 0xFFFF) ∧
    ∃ w : Word, m.read16 .wrap 0xFFFF = .ok w ∧ w.toNat = wordOf (m.read 0xFFFF) (m.read 0x0000)) ∧
  (∀ (s : State) (k : Nat), k = 1 ∨ k = 2 →
    (s.pc.toNat + k ≤ 0xFFFF → ∃ w : Word, opAddr s k = .ok w ∧ w.toNat = s.pc.toNat + k) ∧
    (0xFFFF < s.pc.toNat + k → s.cfg.topPolicy = .fault → opAddr s k = .error (.outOfRangeAccess 0xFFFF)) ∧
    (0xFFFF < s.pc.toNat + k → s.cfg.topPolicy = .wrap →
      ∃ w : Word, opAddr s k = .ok w ∧ w.toNat = s.pc.toNat + k - 0x10000)) ∧
  ∀ s : State,
    (s.pc.toNat + 2 ≤ 0xFFFF ∨ s.cfg.topPolicy = .wrap →
      ∃ w : Word, operandWord s = .ok w ∧ w.toNat = wordOf (s.mem.read (s.pc + 1)) (s.mem.read (s.pc + 2))) ∧
    (0xFFFF < s.pc.toNat + 2 → s.cfg.topPolicy = .fault → operandWord s = .error (.outOfRangeAccess 0xFFFF))

/-- `InvalidAddressingModeUse` (R145, R334): Resolve raises it for the two modes with no memory operand, and no step of
any state and configuration ever halts with it. That it cannot happen is the spec's inference from R102. The spec gives the
raise a payload of an opcode and a mode; that the opcode is the byte at PC is the model's choice (log entry 16). -/
def Obligations.InvalidAddressingModeUseIsUnreachable : Prop :=
  (∀ (s : State) (m : Mode), m = .accumulator ∨ m = .noneAddressing →
    resolve m s = .error (.invalidAddressingModeUse (s.mem.read s.pc) m)) ∧
  ∀ (s t : State) (op : Byte) (m : Mode), step s = .next t → t.phase = .halted (.invalidAddressingModeUse op m) → t = s

/-! ## Memory -/

/-- `MemWrite` (R62) seen through `MemRead` (R61): the byte written reads as `v`, every other byte as before, in every
memory, canonical or not. -/
def Obligations.MemWriteChangesOneByte : Prop :=
  ∀ (m : Memory) (a b : Word) (v : Byte), (m.write a v).read b = if b = a then v else m.read b

/-- The write16/read16 law (R66) with the boundary contract (R64): away from 0xFFFF, and there under `Wrap`, the value
comes back and only its two bytes change; at 0xFFFF under `Fault` both calls raise. -/
def Obligations.Write16ThenRead16 : Prop :=
  (∀ (pol : TopPolicy) (m : Memory) (a v : Word), a ≠ 0xFFFF ∨ pol = .wrap →
    ∃ m' : Memory, m.write16 pol a v = .ok m' ∧ m'.read16 pol a = .ok v ∧
      m'.read a = BitVec.ofNat 8 v.toNat ∧
      m'.read (a + 1) = BitVec.ofNat 8 (v.toNat / 256) ∧
      ∀ b, b ≠ a → b ≠ a + 1 → m'.read b = m.read b) ∧
  ∀ (m : Memory) (v : Word), m.write16 .fault 0xFFFF v = .error (.outOfRangeAccess 0xFFFF) ∧
    m.read16 .fault 0xFFFF = .error (.outOfRangeAccess 0xFFFF)

/-- `write_range` (R65): a range that fits, the empty one and one ending at 0xFFFF too, puts each byte at its place and
changes no other; one that exceeds the address space fails with `RangeOverflow`. -/
def Obligations.WriteRangeAllOrNothing : Prop :=
  ∀ (m : Memory) (start : Word) (bytes : List Byte),
    (start.toNat + bytes.length ≤ 0x10000 → ∃ m' : Memory, m.writeRange start bytes = .ok m' ∧
      (∀ (k : Nat) (hk : k < bytes.length), m'.read (BitVec.ofNat 16 (start.toNat + k)) = bytes[k]) ∧
      ∀ b : Word, b.toNat < start.toNat ∨ start.toNat + bytes.length ≤ b.toNat → m'.read b = m.read b) ∧
    (0x10000 < start.toNat + bytes.length → m.writeRange start bytes = .error .rangeOverflow)

/-- The model's memories in canonical form are determined by what they read: two that read alike at every address are
equal (the model's representation of R60; log entry 8). -/
def Obligations.CanonicalMemoriesAreExtensional : Prop :=
  ∀ m m' : Memory, m.wf = true → m'.wf = true → (∀ a : Word, m.read a = m'.read a) → m = m'

/-! ## Reset, load, run -/

/-- Reset (R360), from every state: A, X, Y and the seven flags are zero, PC is the little-endian word at 0xFFFC, the
phase is Running, memory is untouched. -/
def Obligations.ResetStateValues : Prop :=
  ∀ s : State, s.restart.a = 0x00 ∧ s.restart.x = 0x00 ∧ s.restart.y = 0x00 ∧
    s.restart.pc.toNat = wordOf (s.mem.read 0xFFFC) (s.mem.read 0xFFFD) ∧
    s.restart.p = { c := false, z := false, i := false, d := false, b := false, v := false, n := false } ∧
    s.restart.mem = s.mem ∧ s.restart.phase = .running ∧ s.restart.cfg = s.cfg

/-- `load` (R362): a program of up to 0x8000 bytes stands at 0x8000, but for the two vector bytes, which hold 0x8000; all
else keeps its value; a longer one gives `RangeOverflow` and no state. That the vector write wins is the spec's decision
D12 (R363). -/
def Obligations.LoadWritesProgramThenVector : Prop :=
  ∀ (s : State) (program : List Byte),
    (program.length ≤ 0x8000 → ∃ m' : Memory, s.load program = .ok { s with mem := m' } ∧
      m'.read 0xFFFC = 0x00 ∧ m'.read 0xFFFD = 0x80 ∧
      (∀ (k : Nat) (hk : k < program.length), k ≠ 0x7FFC → k ≠ 0x7FFD →
        m'.read (BitVec.ofNat 16 (0x8000 + k)) = program[k]) ∧
      ∀ b : Word, b.toNat < 0x8000 ∨ 0x8000 + program.length ≤ b.toNat → b ≠ 0xFFFC → b ≠ 0xFFFD →
        m'.read b = s.mem.read b) ∧
    (0x8000 < program.length → s.load program = .error .rangeOverflow)

/-- After `load` and `reset` the machine is Running at 0x8000 with zeroed registers and flags (R364, R367; R364 is the
spec's inference from R360 and R362). -/
def Obligations.LoadThenResetStartsAt8000 : Prop :=
  ∀ (s t : State) (program : List Byte), s.load program = .ok t →
    t.restart = { s with a := 0, x := 0, y := 0, pc := 0x8000, p := Status.clear, mem := t.mem, phase := .running }

/-- `run` under fuel (R309, R312), tied to `step`: it returns a halt exactly when one of the first `n` steps ends in the
phase Halted, with the reason and the state of the first that does; it runs out of fuel exactly when `n` steps are made and
none halts, in the state after them. More fuel changes no halt, and from a running machine a run never lacks a step.
Fuel is the model's way to bound a run (log entry 10); a halt is a next state (log entry 4). -/
def Obligations.RunStopsAtTheFirstHalt : Prop :=
  (∀ (n : Nat) (s t : State) (r : HaltReason), State.run n s = .halted r t ↔ HaltsFirst n s r t) ∧
  (∀ (n : Nat) (s u : State), State.run n s = .outOfFuel u ↔ steps n s = .next u ∧ NoHaltWithin n s) ∧
  (∀ (n k : Nat) (s t : State) (r : HaltReason), State.run n s = .halted r t →
    t.phase = .halted r ∧ State.run (n + k) s = .halted r t) ∧
  ∀ (n : Nat) (s : State), s.phase = .running → State.run n s ≠ .noStep

/-! ## Invariants -/

/-- Every step keeps the machine's invariant: memory in canonical form, B clear (R38), and a halt record that is true of
the state it stands in: its payload, its PC and its configuration are the condition's own (R306, R307, R330 to R334). -/
def Obligations.InvariantKeptByEveryStep : Prop :=
  ∀ s t : State, s.Inv → step s = .next t → t.Inv

/-- The state after reset meets the invariant. -/
def Obligations.InvariantHoldsAtReset : Prop := State.reset.Inv

/-- Without BIT in the table, N and Z are never both set: from every state where they are not, no step sets both, and a
reset clears them (a whole-machine consequence of R160, R161, R275 and R36). -/
def Obligations.NegativeAndZeroNeverTogether : Prop :=
  ∀ s t : State, s.cfg.extLogic = false → ¬ (s.p.n = true ∧ s.p.z = true) → step s = .next t →
    ¬ (t.p.n = true ∧ t.p.z = true) ∧ t.cfg.extLogic = false

/-- `withFetchWord` does what it is for, for all 130 instructions and every operand value: the table word of an
instruction decodes to it, and the next step after placing it runs exactly it (the model's own operation; log entry 3). -/
def Obligations.PlacedInstructionRuns : Prop :=
  ∀ (i : Instr) (s : State), s.pc.toNat + 3 ≤ 0x10000 →
    decodeTableWord (8 * i.length) (numberOf (encode i)) = some i ∧
    step (s.withFetchWord (8 * i.length) (numberOf (encode i))) =
      exec i (s.withFetchWord (8 * i.length) (numberOf (encode i)))

/-- `interpret` (R365): a program that does not fit is answered with `RangeOverflow` and no state, before any reset or
step; any other is loaded, the machine is reset, and the answer is `run`'s from there, which halts exactly at the first
halt after the reset and never lacks a step. That a failed load changes nothing is the spec's decision D22. Fuel is the
model's way to bound a run (log entry 10). -/
def Obligations.InterpretLoadsResetsAndRuns : Prop :=
  ∀ (fuel : Nat) (s : State) (program : List Byte),
    (0x8000 < program.length → s.interpret fuel program = .error .rangeOverflow) ∧
    (program.length ≤ 0x8000 → ∃ (t : State) (e : RunEnd), s.load program = .ok t ∧
      s.interpret fuel program = .ok e ∧ e ≠ .noStep ∧
      (∀ (r : HaltReason) (u : State), e = .halted r u ↔ HaltsFirst fuel t.restart r u) ∧
      ∀ u : State, e = .outOfFuel u ↔ steps fuel t.restart = .next u ∧ NoHaltWithin fuel t.restart)
end

