-- ==== Sys2Proof/Laws/Memory.lean ====
section
/-! SUPPORT. The laws of memory: what a write changes, what it leaves alone, and that every memory operation keeps the
canonical form. -/

namespace Sys2Proof.Machine.Memory

/-- A pair put into a memory that lists nothing at its address is what is read there. -/
theorem get_insert_same (m : Memory) (a : Nat) (v : Byte) (h : ∀ c ∈ m, c.1 ≠ a) : get (insert m a v) a = v := by
  induction m with
  | nil => simp [insert, get]
  | cons c m ih =>
    obtain ⟨k, w⟩ := c
    have hk : k ≠ a := h (k, w) (by simp)
    unfold insert
    split
    · simp [get]
    · simp only [get, if_neg hk]
      exact ih fun c hc => h c (by simp [hc])

/-- Putting a pair in leaves every other address alone. -/
theorem get_insert_other (m : Memory) (a b : Nat) (v : Byte) (h : b ≠ a) : get (insert m a v) b = get m b := by
  induction m with
  | nil => simp [insert, get, Ne.symm h]
  | cons c m ih =>
    obtain ⟨k, w⟩ := c
    unfold insert
    split
    · simp [get, Ne.symm h]
    · simp [get, ih]

/-- An address that is not listed reads as an unlisted one. -/
theorem get_of_not_listed (m : Memory) (a : Nat) (h : ∀ c ∈ m, c.1 ≠ a) : get m a = unlisted := by
  induction m with
  | nil => rfl
  | cons c m ih =>
    have hk : c.1 ≠ a := h c (by simp)
    simp only [get, if_neg hk]
    exact ih fun d hd => h d (by simp [hd])

/-- Taking an address's pairs out leaves every other address alone. -/
theorem get_filter_other (m : Memory) (a b : Nat) (h : b ≠ a) : get (m.filter fun c => c.1 != a) b = get m b := by
  induction m with
  | nil => rfl
  | cons c m ih =>
    obtain ⟨k, w⟩ := c
    by_cases hk : k = a
    · subst hk; simp [get, Ne.symm h, ih]
    · simp [hk, get, ih]

/-- Everything a write does to reads (R62): the byte written reads as written, every other byte reads as before. -/
theorem read_write (m : Memory) (a b : Word) (v : Byte) : (m.write a v).read b = if b = a then v else m.read b := by
  have hf : ∀ c ∈ m.filter (fun c => c.1 != a.toNat), c.1 ≠ a.toNat := by
    intro c hc; simpa using (List.mem_filter.mp hc).2
  by_cases hb : b = a
  · subst hb
    by_cases hv : v = unlisted
    · simp [read, write, hv, get_of_not_listed _ _ hf]
    · simp [read, write, hv, get_insert_same _ _ _ hf]
  · have hn : b.toNat ≠ a.toNat := fun h => hb (BitVec.eq_of_toNat_eq h)
    by_cases hv : v = unlisted
    · simp [read, write, hv, hb, get_filter_other _ _ _ hn]
    · simp [read, write, hv, hb, get_insert_other _ _ _ _ hn, get_filter_other _ _ _ hn]

@[simp] theorem read_write_same (m : Memory) (a : Word) (v : Byte) : (m.write a v).read a = v := by
  simp [read_write]

theorem read_write_other (m : Memory) (a b : Word) (v : Byte) (h : b ≠ a) : (m.write a v).read b = m.read b := by
  simp [read_write, h]

theorem mem_insert (m : Memory) (a : Nat) (v : Byte) (c : Host.Cell) : c ∈ insert m a v ↔ c = (a, v) ∨ c ∈ m := by
  induction m with
  | nil => simp [insert]
  | cons d m ih =>
    obtain ⟨k, w⟩ := d
    unfold insert
    split
    · simp
    · simp [ih]; tauto

theorem pairwise_insert (m : Memory) (a : Nat) (v : Byte) (h : m.Pairwise fun p q => p.1 < q.1)
    (hn : ∀ c ∈ m, c.1 ≠ a) : (insert m a v).Pairwise fun p q => p.1 < q.1 := by
  induction m with
  | nil => simp [insert]
  | cons d m ih =>
    obtain ⟨k, w⟩ := d
    obtain ⟨hk, hm⟩ := List.pairwise_cons.mp h
    have hka : k ≠ a := hn (k, w) (by simp)
    unfold insert
    split
    · rename_i hlt
      refine List.pairwise_cons.mpr ⟨?_, h⟩
      intro c hc
      rcases List.mem_cons.mp hc with rfl | hc
      · exact hlt
      · exact lt_trans hlt (hk c hc)
    · refine List.pairwise_cons.mpr ⟨?_, ih hm fun c hc => hn c (by simp [hc])⟩
      intro c hc
      rcases (mem_insert m a v c).mp hc with rfl | hc
      · show k < a; omega
      · exact hk c hc

/-- The canonical form, as a proposition. -/
theorem wf_iff (m : Memory) :
    m.wf = true ↔ (m.Pairwise fun p q => p.1 < q.1) ∧ ∀ c ∈ m, c.1 < 65536 ∧ c.2 ≠ unlisted := by
  simp [wf]

/-- A write keeps the canonical form. -/
theorem wf_write (m : Memory) (a : Word) (v : Byte) (h : m.wf = true) : (m.write a v).wf = true := by
  rw [wf_iff] at h ⊢
  obtain ⟨hp, ha⟩ := h
  have hp' := hp.filter (fun c => c.1 != a.toNat)
  have hf : ∀ c ∈ m.filter (fun c => c.1 != a.toNat), c.1 ≠ a.toNat := by
    intro c hc; simpa using (List.mem_filter.mp hc).2
  unfold write
  split
  · exact ⟨hp', fun c hc => ha c (List.mem_filter.mp hc).1⟩
  · rename_i hv
    refine ⟨pairwise_insert _ _ _ hp' hf, fun c hc => ?_⟩
    rcases (mem_insert _ _ _ c).mp hc with rfl | hc
    · exact ⟨a.isLt, hv⟩
    · exact ha c (List.mem_filter.mp hc).1

/-- Writing bytes keeps the canonical form. -/
theorem wf_writeBytes (bs : List Byte) (m : Memory) (a : Word) (h : m.wf = true) : (m.writeBytes a bs).wf = true := by
  induction bs generalizing m a with
  | nil => exact h
  | cons b bs ih => exact ih _ _ (wf_write m a b h)

/-- `write16` keeps the canonical form. -/
theorem wf_write16 (pol : TopPolicy) (m m' : Memory) (a v : Word) (h : m.wf = true)
    (hw : m.write16 pol a v = .ok m') : m'.wf = true := by
  unfold write16 at hw
  split at hw
  · cases hw
  · cases hw; exact wf_write _ _ _ (wf_write _ _ _ h)

/-- `write_range` keeps the canonical form. -/
theorem wf_writeRange (m m' : Memory) (a : Word) (bs : List Byte) (h : m.wf = true)
    (hw : m.writeRange a bs = .ok m') : m'.wf = true := by
  unfold writeRange at hw
  split at hw
  · cases hw
  · cases hw; exact wf_writeBytes bs m a h

/-- Writing bytes leaves every address outside them alone (R65). -/
theorem read_writeBytes_outside (bs : List Byte) (m : Memory) (a b : Word) (h : a.toNat + bs.length ≤ 65536)
    (hb : b.toNat < a.toNat ∨ a.toNat + bs.length ≤ b.toNat) : (m.writeBytes a bs).read b = m.read b := by
  induction bs generalizing m a with
  | nil => rfl
  | cons v vs ih =>
    simp only [List.length_cons] at h hb
    have hne : b ≠ a := by rintro rfl; omega
    show ((m.write a v).writeBytes (a + 1) vs).read b = _
    cases vs with
    | nil => exact read_write_other _ _ _ _ hne
    | cons w ws =>
      simp only [List.length_cons] at h hb ih
      have ha : (a + 1).toNat = a.toNat + 1 := by simp [BitVec.toNat_add]; omega
      rw [ih _ _ (by omega) (by omega), read_write_other _ _ _ _ hne]

/-- Each byte written is what is read at its place (R65). -/
theorem read_writeBytes_inside (bs : List Byte) (m : Memory) (a : Word) (k : Nat) (h : a.toNat + bs.length ≤ 65536)
    (hk : k < bs.length) : (m.writeBytes a bs).read (BitVec.ofNat 16 (a.toNat + k)) = bs[k] := by
  induction bs generalizing m a k with
  | nil => simp at hk
  | cons v vs ih =>
    simp only [List.length_cons] at h hk
    show ((m.write a v).writeBytes (a + 1) vs).read _ = _
    have ha : vs.length = 0 ∨ (a + 1).toNat = a.toNat + 1 := by
      have : (a + 1).toNat = (a.toNat + 1) % 65536 := by simp [BitVec.toNat_add]
      omega
    cases k with
    | zero =>
      have h0 : BitVec.ofNat 16 (a.toNat + 0) = a := by simp
      rw [h0]
      rcases ha with ha | ha
      · obtain rfl := List.eq_nil_of_length_eq_zero ha; simp [writeBytes]
      · rw [read_writeBytes_outside vs _ _ a (by omega) (by omega)]; simp
    | succ k =>
      have ha : (a + 1).toNat = a.toNat + 1 := by omega
      have := ih (m.write a v) (a + 1) k (by omega) (by omega)
      rw [ha, show a.toNat + 1 + k = a.toNat + (k + 1) by omega] at this
      simpa using this

end Sys2Proof.Machine.Memory
end

