-- ==== Sys2Proof/Laws/State.lean ====
section
/-! SUPPORT. One lemma for each field and each update of the state, so that no proof unfolds a record update. -/

namespace Sys2Proof.Machine

@[simp] theorem setA_a (s : State) (v : Byte) : (s.setA v).a = v := rfl
@[simp] theorem setA_x (s : State) (v : Byte) : (s.setA v).x = s.x := rfl
@[simp] theorem setA_y (s : State) (v : Byte) : (s.setA v).y = s.y := rfl
@[simp] theorem setA_pc (s : State) (v : Byte) : (s.setA v).pc = s.pc := rfl
@[simp] theorem setA_p (s : State) (v : Byte) : (s.setA v).p = s.p := rfl
@[simp] theorem setA_mem (s : State) (v : Byte) : (s.setA v).mem = s.mem := rfl
@[simp] theorem setA_phase (s : State) (v : Byte) : (s.setA v).phase = s.phase := rfl
@[simp] theorem setA_cfg (s : State) (v : Byte) : (s.setA v).cfg = s.cfg := rfl

@[simp] theorem setX_a (s : State) (v : Byte) : (s.setX v).a = s.a := rfl
@[simp] theorem setX_x (s : State) (v : Byte) : (s.setX v).x = v := rfl
@[simp] theorem setX_y (s : State) (v : Byte) : (s.setX v).y = s.y := rfl
@[simp] theorem setX_pc (s : State) (v : Byte) : (s.setX v).pc = s.pc := rfl
@[simp] theorem setX_p (s : State) (v : Byte) : (s.setX v).p = s.p := rfl
@[simp] theorem setX_mem (s : State) (v : Byte) : (s.setX v).mem = s.mem := rfl
@[simp] theorem setX_phase (s : State) (v : Byte) : (s.setX v).phase = s.phase := rfl
@[simp] theorem setX_cfg (s : State) (v : Byte) : (s.setX v).cfg = s.cfg := rfl

@[simp] theorem setY_a (s : State) (v : Byte) : (s.setY v).a = s.a := rfl
@[simp] theorem setY_x (s : State) (v : Byte) : (s.setY v).x = s.x := rfl
@[simp] theorem setY_y (s : State) (v : Byte) : (s.setY v).y = v := rfl
@[simp] theorem setY_pc (s : State) (v : Byte) : (s.setY v).pc = s.pc := rfl
@[simp] theorem setY_p (s : State) (v : Byte) : (s.setY v).p = s.p := rfl
@[simp] theorem setY_mem (s : State) (v : Byte) : (s.setY v).mem = s.mem := rfl
@[simp] theorem setY_phase (s : State) (v : Byte) : (s.setY v).phase = s.phase := rfl
@[simp] theorem setY_cfg (s : State) (v : Byte) : (s.setY v).cfg = s.cfg := rfl

@[simp] theorem setPc_a (s : State) (w : Word) : (s.setPc w).a = s.a := rfl
@[simp] theorem setPc_x (s : State) (w : Word) : (s.setPc w).x = s.x := rfl
@[simp] theorem setPc_y (s : State) (w : Word) : (s.setPc w).y = s.y := rfl
@[simp] theorem setPc_pc (s : State) (w : Word) : (s.setPc w).pc = w := rfl
@[simp] theorem setPc_p (s : State) (w : Word) : (s.setPc w).p = s.p := rfl
@[simp] theorem setPc_mem (s : State) (w : Word) : (s.setPc w).mem = s.mem := rfl
@[simp] theorem setPc_phase (s : State) (w : Word) : (s.setPc w).phase = s.phase := rfl
@[simp] theorem setPc_cfg (s : State) (w : Word) : (s.setPc w).cfg = s.cfg := rfl

@[simp] theorem setP_a (s : State) (q : Status) : (s.setP q).a = s.a := rfl
@[simp] theorem setP_x (s : State) (q : Status) : (s.setP q).x = s.x := rfl
@[simp] theorem setP_y (s : State) (q : Status) : (s.setP q).y = s.y := rfl
@[simp] theorem setP_pc (s : State) (q : Status) : (s.setP q).pc = s.pc := rfl
@[simp] theorem setP_p (s : State) (q : Status) : (s.setP q).p = q := rfl
@[simp] theorem setP_mem (s : State) (q : Status) : (s.setP q).mem = s.mem := rfl
@[simp] theorem setP_phase (s : State) (q : Status) : (s.setP q).phase = s.phase := rfl
@[simp] theorem setP_cfg (s : State) (q : Status) : (s.setP q).cfg = s.cfg := rfl

@[simp] theorem setPhase_a (s : State) (ph : Phase) : (s.setPhase ph).a = s.a := rfl
@[simp] theorem setPhase_x (s : State) (ph : Phase) : (s.setPhase ph).x = s.x := rfl
@[simp] theorem setPhase_y (s : State) (ph : Phase) : (s.setPhase ph).y = s.y := rfl
@[simp] theorem setPhase_pc (s : State) (ph : Phase) : (s.setPhase ph).pc = s.pc := rfl
@[simp] theorem setPhase_p (s : State) (ph : Phase) : (s.setPhase ph).p = s.p := rfl
@[simp] theorem setPhase_mem (s : State) (ph : Phase) : (s.setPhase ph).mem = s.mem := rfl
@[simp] theorem setPhase_phase (s : State) (ph : Phase) : (s.setPhase ph).phase = ph := rfl
@[simp] theorem setPhase_cfg (s : State) (ph : Phase) : (s.setPhase ph).cfg = s.cfg := rfl

@[simp] theorem store_a (s : State) (w : Word) (v : Byte) : (s.store w v).a = s.a := rfl
@[simp] theorem store_x (s : State) (w : Word) (v : Byte) : (s.store w v).x = s.x := rfl
@[simp] theorem store_y (s : State) (w : Word) (v : Byte) : (s.store w v).y = s.y := rfl
@[simp] theorem store_pc (s : State) (w : Word) (v : Byte) : (s.store w v).pc = s.pc := rfl
@[simp] theorem store_p (s : State) (w : Word) (v : Byte) : (s.store w v).p = s.p := rfl
@[simp] theorem store_mem (s : State) (w : Word) (v : Byte) : (s.store w v).mem = s.mem.write w v := rfl
@[simp] theorem store_phase (s : State) (w : Word) (v : Byte) : (s.store w v).phase = s.phase := rfl
@[simp] theorem store_cfg (s : State) (w : Word) (v : Byte) : (s.store w v).cfg = s.cfg := rfl

@[simp] theorem raise_a (s : State) (r : HaltReason) : (s.raise r).a = s.a := rfl
@[simp] theorem raise_x (s : State) (r : HaltReason) : (s.raise r).x = s.x := rfl
@[simp] theorem raise_y (s : State) (r : HaltReason) : (s.raise r).y = s.y := rfl
@[simp] theorem raise_pc (s : State) (r : HaltReason) : (s.raise r).pc = s.pc := rfl
@[simp] theorem raise_p (s : State) (r : HaltReason) : (s.raise r).p = s.p := rfl
@[simp] theorem raise_mem (s : State) (r : HaltReason) : (s.raise r).mem = s.mem := rfl
@[simp] theorem raise_phase (s : State) (r : HaltReason) : (s.raise r).phase = .halted r := rfl
@[simp] theorem raise_cfg (s : State) (r : HaltReason) : (s.raise r).cfg = s.cfg := rfl

@[simp] theorem loadA_a (s : State) (v : Byte) : (s.loadA v).a = v := rfl
@[simp] theorem loadA_x (s : State) (v : Byte) : (s.loadA v).x = s.x := rfl
@[simp] theorem loadA_y (s : State) (v : Byte) : (s.loadA v).y = s.y := rfl
@[simp] theorem loadA_pc (s : State) (v : Byte) : (s.loadA v).pc = s.pc := rfl
@[simp] theorem loadA_p (s : State) (v : Byte) : (s.loadA v).p = s.p.setNZ v := rfl
@[simp] theorem loadA_mem (s : State) (v : Byte) : (s.loadA v).mem = s.mem := rfl
@[simp] theorem loadA_phase (s : State) (v : Byte) : (s.loadA v).phase = s.phase := rfl
@[simp] theorem loadA_cfg (s : State) (v : Byte) : (s.loadA v).cfg = s.cfg := rfl

@[simp] theorem loadX_a (s : State) (v : Byte) : (s.loadX v).a = s.a := rfl
@[simp] theorem loadX_x (s : State) (v : Byte) : (s.loadX v).x = v := rfl
@[simp] theorem loadX_y (s : State) (v : Byte) : (s.loadX v).y = s.y := rfl
@[simp] theorem loadX_pc (s : State) (v : Byte) : (s.loadX v).pc = s.pc := rfl
@[simp] theorem loadX_p (s : State) (v : Byte) : (s.loadX v).p = s.p.setNZ v := rfl
@[simp] theorem loadX_mem (s : State) (v : Byte) : (s.loadX v).mem = s.mem := rfl
@[simp] theorem loadX_phase (s : State) (v : Byte) : (s.loadX v).phase = s.phase := rfl
@[simp] theorem loadX_cfg (s : State) (v : Byte) : (s.loadX v).cfg = s.cfg := rfl

@[simp] theorem loadY_a (s : State) (v : Byte) : (s.loadY v).a = s.a := rfl
@[simp] theorem loadY_x (s : State) (v : Byte) : (s.loadY v).x = s.x := rfl
@[simp] theorem loadY_y (s : State) (v : Byte) : (s.loadY v).y = v := rfl
@[simp] theorem loadY_pc (s : State) (v : Byte) : (s.loadY v).pc = s.pc := rfl
@[simp] theorem loadY_p (s : State) (v : Byte) : (s.loadY v).p = s.p.setNZ v := rfl
@[simp] theorem loadY_mem (s : State) (v : Byte) : (s.loadY v).mem = s.mem := rfl
@[simp] theorem loadY_phase (s : State) (v : Byte) : (s.loadY v).phase = s.phase := rfl
@[simp] theorem loadY_cfg (s : State) (v : Byte) : (s.loadY v).cfg = s.cfg := rfl

@[simp] theorem setNZ_c (q : Status) (v : Byte) : (q.setNZ v).c = q.c := rfl
@[simp] theorem setNZ_z (q : Status) (v : Byte) : (q.setNZ v).z = (v == 0) := rfl
@[simp] theorem setNZ_i (q : Status) (v : Byte) : (q.setNZ v).i = q.i := rfl
@[simp] theorem setNZ_d (q : Status) (v : Byte) : (q.setNZ v).d = q.d := rfl
@[simp] theorem setNZ_b (q : Status) (v : Byte) : (q.setNZ v).b = q.b := rfl
@[simp] theorem setNZ_v (q : Status) (v : Byte) : (q.setNZ v).v = q.v := rfl
@[simp] theorem setNZ_n (q : Status) (v : Byte) : (q.setNZ v).n = v.msb := rfl

/-- Reset gives the same registers, flags, phase and PC whatever they were: only memory and the configuration come
through (R360). -/
theorem restart_of_memory (s t : State) (hm : s.mem = t.mem) (hc : s.cfg = t.cfg) : s.restart = t.restart := by
  simp [State.restart, hm, hc]

/-- Reset memory has the canonical form. -/
theorem reset_memory_wf : State.reset.mem.wf = true := rfl

/-- A reset keeps memory, and with it the canonical form (R360). -/
@[simp] theorem restart_mem (s : State) : s.restart.mem = s.mem := rfl

/-- The state after reset is the constructed state, reset (R41, R360). -/
theorem reset_eq_restart : State.reset = (State.constructed Config.standard).restart := rfl

@[simp] theorem haltReason_halted (s : State) (r : HaltReason) (h : s.phase = .halted r) : s.haltReason = some r := by
  simp [State.haltReason, h]

@[simp] theorem haltReason_running (s : State) (h : s.phase = .running) : s.haltReason = none := by
  simp [State.haltReason, h]

end Sys2Proof.Machine
end

