-- ==== Sys2Proof/Laws/Table.lean ====
section
/-! SUPPORT. What the table, the operand reader and the handler table can give: each entry has exactly one form of
instruction, whose opcode byte, mnemonic and operand are the entry's (R91, R102). -/

namespace Sys2Proof

/-- A row found for an opcode is a row of the table with that opcode. -/
theorem tableRow_some (op : Byte) (r : Row) (h : tableRow op = some r) : r ∈ rows ∧ r.opcode = op := by
  unfold tableRow at h
  exact ⟨List.mem_of_find?_eq_some h, by simpa using List.find?_some h⟩

/-- The instruction put together from a mnemonic and an operand has that mnemonic and that operand. -/
theorem assemble_some (m : Mnemonic) (o : Operand) (i : Instr) (h : assemble m o = some i) :
    i.mnemonic = m ∧ i.operand = o := by
  cases m <;> cases o <;> first | (cases h; done) | (cases h; exact ⟨rfl, rfl⟩)

/-- Some operand of each mode. -/
def Mode.sample : Mode → Operand
  | .noneAddressing => .noneAddressing
  | .accumulator => .accumulator
  | .immediate => .immediate 0
  | .zeroPage => .zeroPage 0
  | .zeroPageX => .zeroPageX 0
  | .zeroPageY => .zeroPageY 0
  | .absolute => .absolute 0
  | .absoluteX => .absoluteX 0
  | .absoluteY => .absoluteY 0
  | .indirect => .indirect 0
  | .indirectX => .indirectX 0
  | .indirectY => .indirectY 0
  | .relative => .relative 0

/-- Whether there is a form, and its opcode byte, depend on the mode and not on the operand's value. -/
theorem assemble_opcode (m : Mnemonic) (o : Operand) :
    (assemble m o).map Instr.opcode = (assemble m o.mode.sample).map Instr.opcode := by
  cases m <;> cases o <;> rfl

theorem rows_have_forms :
    (rows.all fun r => (assemble r.mnemonic r.mode.sample).map Instr.opcode == some r.opcode) = true := by
  decide

/-- Each row has its form of instruction, with the row's opcode byte (R102). -/
theorem row_assemble (r : Row) (hr : r ∈ rows) (o : Operand) (ho : o.mode = r.mode) :
    ∃ i, assemble r.mnemonic o = some i ∧ i.opcode = r.opcode ∧ i.mnemonic = r.mnemonic ∧ i.operand = o := by
  have h := List.all_eq_true.mp rows_have_forms r hr
  have h' : (assemble r.mnemonic o).map Instr.opcode = some r.opcode := by
    rw [assemble_opcode, ho]; simpa using h
  obtain ⟨i, hi, hop⟩ := Option.map_eq_some_iff.mp h'
  exact ⟨i, hi, hop, assemble_some _ _ _ hi⟩

/-- The group of a mnemonic's rows (R270). -/
def Mnemonic.group : Mnemonic → Group
  | .and | .ora | .eor | .bit => .logic
  | .cmp | .cpx | .cpy => .compare
  | .bpl | .bmi | .bvc | .bvs | .bne | .beq => .branch
  | .adc | .sbc | .asl | .lsr | .rol | .ror | .bcc | .bcs | .jmp | .lda | .ldx | .ldy | .sta | .stx | .sty | .tax
  | .tay | .txa | .tya | .clc | .sec | .cli | .sei | .cld | .sed | .clv | .inx | .brk => .base

/-- The shapes of the handlers. -/
inductive Shape where
  | reads | stores | modifies | implied | branches | jumps | breaks
  deriving DecidableEq, Repr

/-- The shape of a mnemonic's handler. -/
def Mnemonic.shape : Mnemonic → Shape
  | .adc | .sbc | .lda | .ldx | .ldy | .and | .ora | .eor | .bit | .cmp | .cpx | .cpy => .reads
  | .sta | .stx | .sty => .stores
  | .asl | .lsr | .rol | .ror => .modifies
  | .tax | .tay | .txa | .tya | .clc | .sec | .cli | .sei | .cld | .sed | .clv | .inx => .implied
  | .bcc | .bcs | .bpl | .bmi | .bvc | .bvs | .bne | .beq => .branches
  | .jmp => .jumps
  | .brk => .breaks

/-- The shape of an instruction's handler. -/
def Instr.shape (i : Instr) : Shape := i.mnemonic.shape

/-- The operand forms whose address never raises once they are decoded. -/
def Operand.addressed : Operand → Bool
  | .zeroPage _ | .zeroPageX _ | .zeroPageY _ | .absolute _ | .absoluteX _ | .absoluteY _ | .indirectX _
  | .indirectY _ => true
  | .noneAddressing | .accumulator | .immediate _ | .indirect _ | .relative _ => false

/-- The row of an instruction's opcode byte is its own (R91). -/
theorem row_of_instr (i : Instr) :
    (tableRow i.opcode).map (fun r => (r.mnemonic, r.mode, r.group)) = some (i.mnemonic, i.mode, i.mnemonic.group) := by
  cases i <;> rfl

/-- The mnemonic and the operand form make the instruction (R102). -/
theorem assemble_instr (i : Instr) : assemble i.mnemonic i.operand = some i := by
  cases i <;> rfl

/-- The table has the instruction's row. -/
theorem tableRow_instr (i : Instr) :
    ∃ r, tableRow i.opcode = some r ∧ r.mnemonic = i.mnemonic ∧ r.mode = i.mode ∧ r.group = i.mnemonic.group := by
  obtain ⟨r, hr, h⟩ := Option.map_eq_some_iff.mp (row_of_instr i)
  simp only [Prod.mk.injEq] at h
  exact ⟨r, hr, h⟩

/-- Two instructions of one opcode byte have one mnemonic and one mode (R91). -/
theorem opcode_inj (i j : Instr) (h : i.opcode = j.opcode) : i.mnemonic = j.mnemonic ∧ i.mode = j.mode := by
  have hi := row_of_instr i
  rw [h, row_of_instr j] at hi
  simp only [Option.some.injEq, Prod.mk.injEq] at hi
  exact ⟨hi.1.symm, hi.2.1.symm⟩

/-- An instruction is its mnemonic and its operand form. -/
theorem instr_ext (i j : Instr) (hm : i.mnemonic = j.mnemonic) (ho : i.operand = j.operand) : i = j := by
  have hi := assemble_instr i
  rw [hm, ho, assemble_instr j] at hi
  exact (Option.some.inj hi).symm

/-- The word of two bytes, in numbers (R8). -/
theorem leWord_toNat (lo hi : Byte) : (leWord lo hi).toNat = lo.toNat + 256 * hi.toNat := by
  have h := lo.isLt
  have h' := hi.isLt
  unfold leWord
  rw [BitVec.toNat_append, Nat.shiftLeft_eq, ← Nat.mul_comm (2 ^ 8), ← Nat.two_pow_add_eq_or_of_lt h]
  omega

theorem lowByte_toNat (w : Word) : (lowByte w).toNat = w.toNat % 256 := by
  simp [lowByte]

theorem highByte_toNat (w : Word) : (highByte w).toNat = w.toNat / 256 := by
  have := w.isLt
  simp [highByte, Nat.shiftRight_eq_div_pow]; omega

theorem zext16_toNat (b : Byte) : (zext16 b).toNat = b.toNat := by
  simp [zext16]; omega

/-- A word is the word of its two bytes. -/
@[simp] theorem leWord_low_high (w : Word) : leWord (lowByte w) (highByte w) = w := by
  apply BitVec.eq_of_toNat_eq
  rw [leWord_toNat, lowByte_toNat, highByte_toNat]; omega

@[simp] theorem lowByte_leWord (lo hi : Byte) : lowByte (leWord lo hi) = lo := by
  apply BitVec.eq_of_toNat_eq
  rw [lowByte_toNat, leWord_toNat]; omega

@[simp] theorem highByte_leWord (lo hi : Byte) : highByte (leWord lo hi) = hi := by
  apply BitVec.eq_of_toNat_eq
  rw [highByte_toNat, leWord_toNat]; omega

/-- The operand reader takes exactly the operand's bytes. -/
theorem takeOperand_iff (m : Mode) (bs rest : List Byte) (o : Operand) :
    m.takeOperand bs = some (o, rest) ↔ o.mode = m ∧ bs = o.bytes ++ rest := by
  constructor
  · intro h
    cases m <;> rcases bs with _ | ⟨b1, _ | ⟨b2, bs⟩⟩ <;> cases h <;> simp [Operand.mode, Operand.bytes]
  · rintro ⟨rfl, rfl⟩
    cases o <;> simp [Operand.mode, Operand.bytes, Mode.takeOperand]

/-- An operand has as many bytes as its mode says (R92). -/
theorem bytes_length (o : Operand) : o.bytes.length = o.mode.operandBytes := by cases o <;> rfl

/-- An instruction's encoding has the instruction's length (R90). -/
theorem encode_length (i : Instr) : (encode i).length = i.length := by
  simp [encode, Instr.length, Instr.mode, Mode.length, bytes_length]; omega

/-- What a configuration's table holds is in the whole table. -/
theorem entry_some (cfg : Config) (op : Byte) (r : Row) (h : cfg.entry op = some r) :
    tableRow op = some r ∧ cfg.holds r = true := by
  unfold Config.entry at h
  simpa [Option.filter_eq_some_iff] using h

/-- The low byte of a word as a number. -/
theorem lowByte_eq (w : Word) : lowByte w = BitVec.ofNat 8 w.toNat := by
  apply BitVec.eq_of_toNat_eq; rw [lowByte_toNat]; simp

/-- The high byte of a word as a number. -/
theorem highByte_eq (w : Word) : highByte w = BitVec.ofNat 8 (w.toNat / 256) := by
  apply BitVec.eq_of_toNat_eq; rw [highByte_toNat]; have := w.isLt; simp; omega

/-- A configuration with an opcode's row put in has an entry for it. -/
theorem withOpcode_entry (cfg : Config) (op : Byte) (r : Row) (h : tableRow op = some r) :
    ((cfg.withOpcode op).entry op).isSome = true := by
  have : (cfg.withOpcode op).holds r = true := by
    unfold Config.withOpcode
    have hop := (tableRow_some _ _ h).2
    simp only [h]
    cases hg : r.group <;> simp [Config.holds, hg, hop]
  simp [Config.entry, h, this]

end Sys2Proof
end

