-- ==== Sys2Proof/Laws/Forms.lean ====
section
/-! SUPPORT. What each shared operation of the machine can do, said once: the advance, the handler shapes, and `exec` as
one function of the mnemonic and the operand form, so that a proof over all 130 instructions splits over 41 mnemonics. -/

namespace Sys2Proof.Machine

/-- The advance after a handler that left PC alone. -/
theorem advance_of_pc (s s' : State) (len : Nat) (h : s'.pc = s.pc) :
    s.advance len s' = s'.setPc (s.pc + BitVec.ofNat 16 len) := by
  simp [State.advance, h]

/-- The advance after a handler that moved PC. -/
theorem advance_of_moved (s s' : State) (len : Nat) (h : s'.pc ≠ s.pc) : s.advance len s' = s' := by
  simp [State.advance, h]

@[simp] theorem advance_a (s s' : State) (n : Nat) : (s.advance n s').a = s'.a := by unfold State.advance; split <;> rfl
@[simp] theorem advance_x (s s' : State) (n : Nat) : (s.advance n s').x = s'.x := by unfold State.advance; split <;> rfl
@[simp] theorem advance_y (s s' : State) (n : Nat) : (s.advance n s').y = s'.y := by unfold State.advance; split <;> rfl
@[simp] theorem advance_p (s s' : State) (n : Nat) : (s.advance n s').p = s'.p := by unfold State.advance; split <;> rfl
@[simp] theorem advance_mem (s s' : State) (n : Nat) : (s.advance n s').mem = s'.mem := by
  unfold State.advance; split <;> rfl
@[simp] theorem advance_phase (s s' : State) (n : Nat) : (s.advance n s').phase = s'.phase := by
  unfold State.advance; split <;> rfl
@[simp] theorem advance_cfg (s s' : State) (n : Nat) : (s.advance n s').cfg = s'.cfg := by
  unfold State.advance; split <;> rfl

/-- The end of an instruction is a next state: the raise, or the advanced state. -/
theorem complete_next (s t : State) (len : Nat) (h : Except HaltReason State) (ht : complete s len h = .next t) :
    (∃ r, h = .error r ∧ t = s.raise r) ∨ ∃ s', h = .ok s' ∧ t = s.advance len s' := by
  cases h with
  | error r => exact .inl ⟨r, rfl, by simpa [complete] using ht.symm⟩
  | ok s' => exact .inr ⟨s', rfl, by simpa [complete] using ht.symm⟩

/-- A decoded address never raises. -/
theorem effectiveAddress_addressed (o : Operand) (s : State) (h : o.addressed = true) :
    ∃ ea, effectiveAddress o s = .ok ea := by
  cases o <;> first | exact ⟨_, rfl⟩ | simp [Operand.addressed] at h

/-- A read form over a decoded operand: the handler's state, with PC behind the instruction. -/
theorem readForm_eq (o : Operand) (f : Byte → State → State) (s : State) (m : Byte) (hm : operandByte o s = .ok m)
    (hf : (f m s).pc = s.pc) :
    readForm o f s = .next ((f m s).setPc (s.pc + BitVec.ofNat 16 o.mode.length)) := by
  simp [readForm, hm, complete, advance_of_pc _ _ _ hf]

/-- A store form over a decoded address. -/
theorem storeForm_eq (o : Operand) (v : Byte) (s : State) (ea : Word) (h : effectiveAddress o s = .ok ea) :
    storeForm o v s = .next ((s.store ea v).setPc (s.pc + BitVec.ofNat 16 o.mode.length)) := by
  simp only [storeForm, h, complete]
  rw [advance_of_pc]
  rfl

/-- A shift on the accumulator. -/
theorem accumulatorForm_eq (op : Byte → Bool → Byte × Bool) (s : State) :
    accumulatorForm op s =
      .next (((s.loadA (op s.a s.p.c).1).setP { s.p.setNZ (op s.a s.p.c).1 with c := (op s.a s.p.c).2 }).setPc
        (s.pc + 1)) := by
  simp only [accumulatorForm, complete]
  rw [advance_of_pc]
  all_goals rfl

/-- A shift on memory over a decoded address. -/
theorem modifyForm_eq (o : Operand) (op : Byte → Bool → Byte × Bool) (s : State) (ea : Word)
    (h : effectiveAddress o s = .ok ea) :
    modifyForm o op s =
      .next (((s.store ea (op (s.mem.read ea) s.p.c).1).setP
        { s.p.setNZ (op (s.mem.read ea) s.p.c).1 with c := (op (s.mem.read ea) s.p.c).2 }).setPc
          (s.pc + BitVec.ofNat 16 o.mode.length)) := by
  simp only [modifyForm, h, complete]
  rw [advance_of_pc]
  rfl

/-- An implied form. -/
theorem impliedForm_eq (f : State → State) (s : State) (hf : (f s).pc = s.pc) :
    impliedForm f s = .next ((f s).setPc (s.pc + 1)) := by
  simp [impliedForm, complete, advance_of_pc _ _ _ hf]; rfl

/-- Everything a branch can do: fall through, go to a target inside the address space, or, past its ends, wrap or
raise. -/
theorem branchForm_cases (rel : Byte) (cond : Bool) (s : State) :
    (cond = false ∧ branchForm rel cond s = .next (s.setPc (s.pc + 2))) ∨
    (cond = true ∧ (0 ≤ branchBase s + rel.toInt ∧ branchBase s + rel.toInt ≤ 0xFFFF ∨ s.cfg.branchOverflow = .wrap) ∧
      branchForm rel cond s = .next (s.advance 2 (s.setPc (BitVec.ofInt 16 (branchBase s + rel.toInt))))) ∨
    (cond = true ∧ ¬ (0 ≤ branchBase s + rel.toInt ∧ branchBase s + rel.toInt ≤ 0xFFFF) ∧
      s.cfg.branchOverflow = .fatal ∧
      branchForm rel cond s = .next (s.raise (.branchOverflow s.pc (branchBase s + rel.toInt)))) := by
  cases cond with
  | false =>
    refine .inl ⟨rfl, ?_⟩
    simp [branchForm, complete, advance_of_pc]; rfl
  | true =>
    refine .inr ?_
    by_cases ht : branchBase s + rel.toInt < 0 ∨ 0xFFFF < branchBase s + rel.toInt
    · cases hb : s.cfg.branchOverflow with
      | fatal =>
        refine .inr ⟨rfl, by omega, rfl, ?_⟩
        simp only [branchForm, if_pos ht, hb, complete, ↓reduceIte]
      | wrap =>
        refine .inl ⟨rfl, .inr rfl, ?_⟩
        simp only [branchForm, if_pos ht, hb, complete, ↓reduceIte]; rfl
    · refine .inl ⟨rfl, .inl (by omega), ?_⟩
      simp only [branchForm, if_neg ht, complete, ↓reduceIte]; rfl

/-- A jump leaves everything but PC and the phase alone. -/
theorem jumpForm_next (o : Operand) (s t : State) (h : jumpForm o s = .next t) :
    t.a = s.a ∧ t.x = s.x ∧ t.y = s.y ∧ t.p = s.p ∧ t.mem = s.mem := by
  unfold jumpForm at h
  rcases complete_next _ _ _ _ h with ⟨r, h', rfl⟩ | ⟨s', h', rfl⟩
  · simp
  · split at h' <;> cases h'
    simp

/-- A branch leaves everything but PC and the phase alone. -/
theorem branchForm_next (o : Byte) (c : Bool) (s t : State) (h : branchForm o c s = .next t) :
    t.a = s.a ∧ t.x = s.x ∧ t.y = s.y ∧ t.p = s.p ∧ t.mem = s.mem := by
  rcases branchForm_cases o c s with ⟨-, h'⟩ | ⟨-, -, h'⟩ | ⟨-, -, -, h'⟩
  all_goals rw [h'] at h; cases h; simp

/-- The meaning of a mnemonic over an operand form. -/
def handler (m : Mnemonic) (o : Operand) (s : State) : Answer :=
  match m with
  | .adc => readForm o addWithCarry s
  | .sbc => readForm o subtractWithCarry s
  | .asl => if o = .accumulator then accumulatorForm shiftLeft s else modifyForm o shiftLeft s
  | .lsr => if o = .accumulator then accumulatorForm shiftRight s else modifyForm o shiftRight s
  | .rol => if o = .accumulator then accumulatorForm rotateLeft s else modifyForm o rotateLeft s
  | .ror => if o = .accumulator then accumulatorForm rotateRight s else modifyForm o rotateRight s
  | .bcc => branchForm (o.bytes.headD 0) (!s.p.c) s
  | .bcs => branchForm (o.bytes.headD 0) s.p.c s
  | .jmp => jumpForm o s
  | .lda => readForm o (fun m s => s.loadA m) s
  | .ldx => readForm o (fun m s => s.loadX m) s
  | .ldy => readForm o (fun m s => s.loadY m) s
  | .sta => storeForm o s.a s
  | .stx => storeForm o s.x s
  | .sty => storeForm o s.y s
  | .tax => impliedForm (fun s => s.loadX s.a) s
  | .tay => impliedForm (fun s => s.loadY s.a) s
  | .txa => impliedForm (fun s => s.loadA s.x) s
  | .tya => impliedForm (fun s => s.loadA s.y) s
  | .clc => impliedForm (fun s => s.setP { s.p with c := false }) s
  | .sec => impliedForm (fun s => s.setP { s.p with c := true }) s
  | .cli => impliedForm (fun s => s.setP { s.p with i := false }) s
  | .sei => impliedForm (fun s => s.setP { s.p with i := true }) s
  | .cld => impliedForm (fun s => s.setP { s.p with d := false }) s
  | .sed => impliedForm (fun s => s.setP { s.p with d := true }) s
  | .clv => impliedForm (fun s => s.setP { s.p with v := false }) s
  | .inx => impliedForm (fun s => s.loadX (s.x + 1)) s
  | .brk => breakForm s
  | .and => readForm o (fun m s => s.loadA (s.a &&& m)) s
  | .ora => readForm o (fun m s => s.loadA (s.a ||| m)) s
  | .eor => readForm o (fun m s => s.loadA (s.a ^^^ m)) s
  | .bit => readForm o bitTest s
  | .cmp => readForm o (fun m s => compareFlags s.a m s) s
  | .cpx => readForm o (fun m s => compareFlags s.x m s) s
  | .cpy => readForm o (fun m s => compareFlags s.y m s) s
  | .bpl => branchForm (o.bytes.headD 0) (!s.p.n) s
  | .bmi => branchForm (o.bytes.headD 0) s.p.n s
  | .bvc => branchForm (o.bytes.headD 0) (!s.p.v) s
  | .bvs => branchForm (o.bytes.headD 0) s.p.v s
  | .bne => branchForm (o.bytes.headD 0) (!s.p.z) s
  | .beq => branchForm (o.bytes.headD 0) s.p.z s

end Sys2Proof.Machine
end

