-- ==== Sys2Proof/Laws/Step.lean ====
section
/-! SUPPORT. `exec` by mnemonic and operand, the inversion of a fetch, and the cases of a step. -/

namespace Sys2Proof.Machine

/-- Every instruction runs its mnemonic's handler over its operand form (R304). -/
theorem exec_eq_handler (i : Instr) (s : State) : exec i s = handler i.mnemonic i.operand s := by
  cases i <;> rfl

theorem step_running (s : State) (h : s.phase = .running) : step s = fetchAndRun exec s := by
  simp [step, gated, h]

theorem step_halted (s : State) (r : HaltReason) (h : s.phase = .halted r) : step s = .next s := by
  simp [step, gated, h]

theorem step_notStarted (s : State) (h : s.phase = .notStarted) : step s = .refused .hostProtocol := by
  simp [step, gated, h]

/-- Operand bytes that are read are the bytes of an operand of the mode. -/
theorem operandBytesAt_ok (m : Mode) (s : State) (bs : List Byte) (h : operandBytesAt m s = .ok bs) :
    ∃ o : Operand, o.mode = m ∧ bs = o.bytes := by
  have key : ∀ o : Operand, m.takeOperand bs = some (o, []) → ∃ o : Operand, o.mode = m ∧ bs = o.bytes := by
    intro o ho
    obtain ⟨h1, h2⟩ := (takeOperand_iff m bs [] o).mp ho
    exact ⟨o, h1, by simpa using h2⟩
  unfold operandBytesAt at h
  cases m <;> simp only [Mode.operandBytes] at h
  case noneAddressing => cases h; exact ⟨.noneAddressing, rfl, rfl⟩
  case accumulator => cases h; exact ⟨.accumulator, rfl, rfl⟩
  case absolute | absoluteX | absoluteY | indirect =>
    cases hw : operandWord s with
    | error r => simp [hw, Except.map] at h
    | ok w => simp [hw, Except.map] at h; subst h; exact key _ rfl
  all_goals
    cases hq : opAddr s 1 with
    | error r => simp [hq, Except.map] at h
    | ok q => simp [hq, Except.map] at h; subst h; exact key _ rfl

/-- What `MemRead16` can do inside a step (R63, R332). -/
theorem read16_cases (s : State) (a : Word) :
    (a = 0xFFFF ∧ s.cfg.topPolicy = .fault ∧ s.read16 a = .error (.outOfRangeAccess 0xFFFF)) ∨
    ((a ≠ 0xFFFF ∨ s.cfg.topPolicy = .wrap) ∧ s.read16 a = .ok (leWord (s.mem.read a) (s.mem.read (a + 1)))) := by
  by_cases ha : a = 0xFFFF
  · subst ha
    cases hp : s.cfg.topPolicy with
    | fault => exact .inl ⟨rfl, rfl, by simp [State.read16, Memory.read16, secondByte, hp]⟩
    | wrap => exact .inr ⟨.inr rfl, by simp [State.read16, Memory.read16, secondByte, hp]⟩
  · exact .inr ⟨.inl ha, by simp only [State.read16, Memory.read16, secondByte, if_neg ha]⟩

/-- What the address of the first operand byte can be (R131). -/
theorem opAddr_cases (s : State) :
    (s.pc = 0xFFFF ∧ s.cfg.topPolicy = .fault ∧ opAddr s 1 = .error (.outOfRangeAccess 0xFFFF)) ∨
    ((s.pc ≠ 0xFFFF ∨ s.cfg.topPolicy = .wrap) ∧ opAddr s 1 = .ok (s.pc + 1)) := by
  have hlt := s.pc.isLt
  have hadd : BitVec.ofNat 16 (s.pc.toNat + 1) = s.pc + 1 := by
    apply BitVec.eq_of_toNat_eq; simp [BitVec.toNat_add]
  by_cases ha : s.pc = 0xFFFF
  · have hn : s.pc.toNat = 0xFFFF := by rw [ha]; rfl
    cases hp : s.cfg.topPolicy with
    | fault => exact .inl ⟨ha, rfl, by simp [opAddr, hp, hn]⟩
    | wrap => exact .inr ⟨.inr rfl, by simp only [opAddr, hp, hadd]; split <;> rfl⟩
  · have hn : s.pc.toNat ≠ 0xFFFF := fun h => ha (BitVec.eq_of_toNat_eq (by rw [h]; rfl))
    exact .inr ⟨.inl ha, by simp only [opAddr, hadd]; rw [if_neg (by omega)]⟩

/-- What the operand word can be (R132). -/
theorem operandWord_cases (s : State) :
    (0xFFFE ≤ s.pc.toNat ∧ s.cfg.topPolicy = .fault ∧ operandWord s = .error (.outOfRangeAccess 0xFFFF)) ∨
    ((s.pc.toNat < 0xFFFE ∨ s.cfg.topPolicy = .wrap) ∧
      operandWord s = .ok (leWord (s.mem.read (s.pc + 1)) (s.mem.read (s.pc + 2)))) := by
  have hlt := s.pc.isLt
  have h2 : s.pc + 1 + 1 = s.pc + 2 := by rw [BitVec.add_assoc]; rfl
  rcases opAddr_cases s with ⟨hp, hf, ho⟩ | ⟨hp, ho⟩
  · exact .inl ⟨by rw [hp]; decide, hf, by simp [operandWord, ho]⟩
  · rcases read16_cases s (s.pc + 1) with ⟨ha, hf, hr⟩ | ⟨ha, hr⟩
    · refine .inl ⟨?_, hf, by simp only [operandWord, ho, hr]⟩
      have := congrArg BitVec.toNat ha
      simp [BitVec.toNat_add] at this; omega
    · refine .inr ⟨?_, by simp only [operandWord, ho, hr, h2]⟩
      rcases ha with ha | ha
      · rcases hp with hp | hp
        · left
          have h1 : (s.pc + 1).toNat ≠ 0xFFFF := fun h => ha (BitVec.eq_of_toNat_eq (by rw [h]; rfl))
          have h3 : s.pc.toNat ≠ 0xFFFF := fun h => hp (BitVec.eq_of_toNat_eq (by rw [h]; rfl))
          simp [BitVec.toNat_add] at h1; omega
        · exact .inr hp
      · exact .inr ha

/-- What reading an instruction's operand bytes can do (R131, R132): raise at the top of memory under `Fault`, or give the
bytes after the opcode. -/
theorem operandBytesAt_cases (m : Mode) (s : State) :
    (0x10000 < s.pc.toNat + m.length ∧ s.cfg.topPolicy = .fault ∧
      operandBytesAt m s = .error (.outOfRangeAccess 0xFFFF)) ∨
    ((s.pc.toNat + m.length ≤ 0x10000 ∨ s.cfg.topPolicy = .wrap) ∧
      operandBytesAt m s = .ok ([s.mem.read (s.pc + 1), s.mem.read (s.pc + 2)].take m.operandBytes)) := by
  have hlt := s.pc.isLt
  have h0 : ∀ m : Mode, m.operandBytes = 0 → (s.pc.toNat + m.length ≤ 0x10000 ∨ s.cfg.topPolicy = .wrap) ∧
      operandBytesAt m s = .ok ([s.mem.read (s.pc + 1), s.mem.read (s.pc + 2)].take m.operandBytes) := by
    intro m hm
    refine ⟨.inl ?_, ?_⟩
    · simp [Mode.length, hm]; omega
    · simp [operandBytesAt, hm]
  have h1 : ∀ m : Mode, m.operandBytes = 1 → (0x10000 < s.pc.toNat + m.length ∧ s.cfg.topPolicy = .fault ∧
      operandBytesAt m s = .error (.outOfRangeAccess 0xFFFF)) ∨
    ((s.pc.toNat + m.length ≤ 0x10000 ∨ s.cfg.topPolicy = .wrap) ∧
      operandBytesAt m s = .ok ([s.mem.read (s.pc + 1), s.mem.read (s.pc + 2)].take m.operandBytes)) := by
    intro m hm
    rcases opAddr_cases s with ⟨hp, hf, ho⟩ | ⟨hp, ho⟩
    · exact .inl ⟨by simp [Mode.length, hm, hp], hf, by simp [operandBytesAt, hm, ho, Except.map]⟩
    · refine .inr ⟨?_, by simp [operandBytesAt, hm, ho, Except.map]⟩
      rcases hp with hp | hp
      · have h3 : s.pc.toNat ≠ 0xFFFF := fun h => hp (BitVec.eq_of_toNat_eq (by rw [h]; rfl))
        left; simp [Mode.length, hm]; omega
      · exact .inr hp
  have h2 : ∀ m : Mode, m.operandBytes = 2 → (0x10000 < s.pc.toNat + m.length ∧ s.cfg.topPolicy = .fault ∧
      operandBytesAt m s = .error (.outOfRangeAccess 0xFFFF)) ∨
    ((s.pc.toNat + m.length ≤ 0x10000 ∨ s.cfg.topPolicy = .wrap) ∧
      operandBytesAt m s = .ok ([s.mem.read (s.pc + 1), s.mem.read (s.pc + 2)].take m.operandBytes)) := by
    intro m hm
    rcases operandWord_cases s with ⟨hp, hf, ho⟩ | ⟨hp, ho⟩
    · exact .inl ⟨by simp [Mode.length, hm]; omega, hf, by simp [operandBytesAt, hm, ho, Except.map]⟩
    · refine .inr ⟨?_, by simp [operandBytesAt, hm, ho, Except.map]⟩
      rcases hp with hp | hp
      · left; simp [Mode.length, hm]; omega
      · exact .inr hp
  cases m <;> first | exact .inr (h0 _ rfl) | exact h1 _ rfl | exact h2 _ rfl

/-- A fetch that gives an instruction: its row is in the configuration's table, and its bytes stand at PC. -/
theorem fetch_ok (s : State) (i : Instr) (h : fetch s = .ok i) :
    ∃ row, s.cfg.entry (s.mem.read s.pc) = some row ∧ row.mnemonic = i.mnemonic ∧ row.mode = i.mode ∧
      i.opcode = s.mem.read s.pc ∧ operandBytesAt i.mode s = .ok i.operand.bytes := by
  unfold fetch at h
  simp only at h
  split at h
  · cases h
  · rename_i row hrow
    split at h
    · cases h
    · rename_i bs hbs
      obtain ⟨ht, -⟩ := entry_some _ _ _ hrow
      obtain ⟨hmem, hop⟩ := tableRow_some _ _ ht
      obtain ⟨o, hmode, rfl⟩ := operandBytesAt_ok _ _ _ hbs
      obtain ⟨j, hj, hjop, hjm, hjo⟩ := row_assemble row hmem o hmode
      have htake : row.mode.takeOperand o.bytes = some (o, []) := (takeOperand_iff _ _ _ _).mpr ⟨hmode, by simp⟩
      simp only [decode, ht, htake, hj] at h
      cases h
      refine ⟨row, hrow, hjm.symm, ?_, by rw [hjop, hop], ?_⟩
      · rw [Instr.mode, hjo, hmode]
      · rw [Instr.mode, hjo, hmode]; exact hbs

/-- A fetch that raises: no entry, or an operand byte past the top (R337: in this order). -/
theorem fetch_error (s : State) (r : HaltReason) (h : fetch s = .error r) :
    (s.cfg.entry (s.mem.read s.pc) = none ∧ r = .unimplementedOpcode (s.mem.read s.pc) s.pc) ∨
    ∃ row, s.cfg.entry (s.mem.read s.pc) = some row ∧ r = .outOfRangeAccess 0xFFFF ∧ s.cfg.topPolicy = .fault ∧
      0x10000 < s.pc.toNat + row.length := by
  unfold fetch at h
  simp only at h
  split at h
  · rename_i hrow
    exact .inl ⟨hrow, by simpa using h.symm⟩
  · rename_i row hrow
    refine .inr ⟨row, hrow, ?_⟩
    split at h
    · rename_i r' hbs
      rcases operandBytesAt_cases row.mode s with ⟨hl, hf, hb⟩ | ⟨-, hb⟩
      · rw [hb] at hbs; cases hbs; exact ⟨by simpa using h.symm, hf, hl⟩
      · rw [hb] at hbs; cases hbs
    · rename_i bs hbs
      obtain ⟨ht, -⟩ := entry_some _ _ _ hrow
      obtain ⟨hmem, hop⟩ := tableRow_some _ _ ht
      obtain ⟨o, hmode, rfl⟩ := operandBytesAt_ok _ _ _ hbs
      obtain ⟨j, hj, -⟩ := row_assemble row hmem o hmode
      have htake : row.mode.takeOperand o.bytes = some (o, []) := (takeOperand_iff _ _ _ _).mpr ⟨hmode, by simp⟩
      simp only [decode, ht, htake, hj] at h
      cases h

/-- The cases of a running machine's step: a raise of the fetch, or the fetched instruction. -/
theorem step_cases (s : State) (h : s.phase = .running) :
    (∃ r, fetch s = .error r ∧ step s = .next (s.raise r)) ∨ ∃ i, fetch s = .ok i ∧ step s = exec i s := by
  rw [step_running s h]
  cases hf : fetch s with
  | error r => exact .inl ⟨r, rfl, by simp [fetchAndRun, hf]⟩
  | ok i => exact .inr ⟨i, rfl, by simp [fetchAndRun, hf]⟩

end Sys2Proof.Machine
end

