-- ==== Sys2Proof/Laws/Exec.lean ====
section
/-! SUPPORT. What `exec` can do to the state, said once over all instructions: the inversion that invariants and frames
start from. -/

namespace Sys2Proof.Machine

/-- The data operand of an instruction that has one is there: a literal, or a byte at a decoded address. -/
theorem operandByte_ok (o : Operand) (s : State) (h : o.addressed = true ∨ o.mode = .immediate) :
    ∃ m, operandByte o s = .ok m := by
  cases o <;> first | exact ⟨_, rfl⟩ | simp [Operand.addressed, Operand.mode] at h

/-- An instruction that reads an operand has one that is there (R102). -/
theorem reads_operand (i : Instr) (s : State) (h : i.shape = .reads) : ∃ m, operandByte i.operand s = .ok m := by
  cases i <;> first | exact ⟨_, rfl⟩ | simp [Instr.shape, Instr.mnemonic, Mnemonic.shape] at h

/-- An instruction that stores has an address (R102). -/
theorem stores_address (i : Instr) (s : State) (h : i.shape = .stores) :
    ∃ ea, effectiveAddress i.operand s = .ok ea := by
  cases i <;> first | exact ⟨_, rfl⟩ | simp [Instr.shape, Instr.mnemonic, Mnemonic.shape] at h

/-- A shift works on the accumulator or has an address (R180). -/
theorem modifies_address (i : Instr) (s : State) (h : i.shape = .modifies) :
    i.operand = .accumulator ∨ (i.operand ≠ .accumulator ∧ ∃ ea, effectiveAddress i.operand s = .ok ea) := by
  cases i <;> first | exact .inl rfl | exact .inr ⟨by simp [Instr.operand], _, rfl⟩ | simp [Instr.shape, Instr.mnemonic, Mnemonic.shape] at h

/-- A branch has a displacement. -/
theorem branches_operand (i : Instr) (h : i.shape = .branches) : ∃ rel, i.operand = .relative rel := by
  cases i <;> first | exact ⟨_, rfl⟩ | simp [Instr.shape, Instr.mnemonic, Mnemonic.shape] at h

/-- Everything an instruction can do to memory, phase, configuration and B: memory as it was or written at its effective
address; the phase as it was, or halted by BRK, by a JMP-indirect pointer at the top, or by a branch past the ends. -/
def ExecSummary (i : Instr) (s : State) : Prop :=
  ∃ t, exec i s = .next t ∧ t.cfg = s.cfg ∧ t.p.b = s.p.b ∧
    (t.mem = s.mem ∨ ∃ ea v, effectiveAddress i.operand s = .ok ea ∧ t.mem = s.mem.write ea v) ∧
    (t.phase = s.phase ∨
      (i.mnemonic = .brk ∧ t = { s with pc := s.pc + 1, phase := .halted .brk }) ∨
      (i.mnemonic = .jmp ∧ i.operand = .indirect 0xFFFF ∧ s.cfg.topPolicy = .fault ∧
        t = s.raise (.outOfRangeAccess 0xFFFF)) ∨
      (i.shape = .branches ∧ s.cfg.branchOverflow = .fatal ∧ ∃ x : Int, (x < 0 ∨ 0xFFFF < x) ∧
        t = s.raise (.branchOverflow s.pc x)))

/-- Every instruction does one of these things. -/
theorem exec_summary (i : Instr) (s : State) : ExecSummary i s := by
  have read : ∀ (f : Byte → State → State), exec i s = readForm i.operand f s → i.shape = .reads →
      (∀ m, (f m s).cfg = s.cfg ∧ (f m s).p.b = s.p.b ∧ (f m s).mem = s.mem ∧ (f m s).phase = s.phase) → ExecSummary i s := by
    intro f hf hs hk
    obtain ⟨m, hm⟩ := reads_operand i s hs
    obtain ⟨h1, h2, h3, h4⟩ := hk m
    exact ⟨s.advance i.operand.mode.length (f m s), by simp [hf, readForm, hm, complete], by simpa using h1,
      by simpa using h2, .inl (by simpa using h3), .inl (by simpa using h4)⟩
  have store : ∀ (v : Byte), exec i s = storeForm i.operand v s → i.shape = .stores → ExecSummary i s := by
    intro v hf hs
    obtain ⟨ea, he⟩ := stores_address i s hs
    exact ⟨_, hf.trans (storeForm_eq _ v s ea he), rfl, rfl, .inr ⟨ea, v, he, rfl⟩, .inl rfl⟩
  have shift : ∀ op, exec i s = (if i.operand = .accumulator then accumulatorForm op s else modifyForm i.operand op s) →
      i.shape = .modifies → ExecSummary i s := by
    intro op hf hs
    rcases modifies_address i s hs with ho | ⟨ho, ea, he⟩
    · rw [if_pos ho] at hf
      exact ⟨_, hf.trans (accumulatorForm_eq op s), rfl, rfl, .inl rfl, .inl rfl⟩
    · rw [if_neg ho] at hf
      exact ⟨_, hf.trans (modifyForm_eq _ op s ea he), rfl, rfl, .inr ⟨ea, _, he, rfl⟩, .inl rfl⟩
  have implied : ∀ (f : State → State), exec i s = impliedForm f s →
      ((f s).cfg = s.cfg ∧ (f s).p.b = s.p.b ∧ (f s).mem = s.mem ∧ (f s).phase = s.phase) → ExecSummary i s := by
    intro f hf hk
    obtain ⟨h1, h2, h3, h4⟩ := hk
    exact ⟨s.advance 1 (f s), by rw [hf]; rfl, by simpa using h1, by simpa using h2, .inl (by simpa using h3),
      .inl (by simpa using h4)⟩
  have branch : ∀ (rel : Byte) (c : Bool), exec i s = branchForm rel c s → i.shape = .branches → ExecSummary i s := by
    intro rel c hf hs
    rcases branchForm_cases rel c s with ⟨-, h⟩ | ⟨-, -, h⟩ | ⟨-, hx, ho, h⟩
    · exact ⟨_, hf.trans h, rfl, rfl, .inl rfl, .inl rfl⟩
    · exact ⟨_, hf.trans h, by simp, by simp, .inl (by simp), .inl (by simp)⟩
    · exact ⟨_, hf.trans h, rfl, rfl, .inl rfl, .inr (.inr (.inr ⟨hs, ho, _, by omega, rfl⟩))⟩
  have hx := exec_eq_handler i s
  cases hm : i.mnemonic <;> rw [hm] at hx <;> simp only [handler] at hx
  case adc | sbc | lda | ldx | ldy | and | ora | eor | bit | cmp | cpx | cpy =>
    exact read _ hx (by simp [Instr.shape, hm, Mnemonic.shape]) fun m => ⟨rfl, rfl, rfl, rfl⟩
  case sta | stx | sty => exact store _ hx (by simp [Instr.shape, hm, Mnemonic.shape])
  case asl | lsr | rol | ror => exact shift _ hx (by simp [Instr.shape, hm, Mnemonic.shape])
  case tax | tay | txa | tya | clc | sec | cli | sei | cld | sed | clv | inx =>
    exact implied _ hx ⟨rfl, rfl, rfl, rfl⟩
  case bcc | bcs | bpl | bmi | bvc | bvs | bne | beq => exact branch _ _ hx (by simp [Instr.shape, hm, Mnemonic.shape])
  case brk =>
    refine ⟨_, hx, ?_⟩
    rw [advance_of_pc _ _ _ rfl]
    exact ⟨rfl, rfl, .inl rfl, .inr (.inl ⟨hm, rfl⟩)⟩
  case jmp =>
    have hj : (∃ addr, i.operand = .absolute addr) ∨ ∃ ptr, i.operand = .indirect ptr := by
      cases i <;> first | exact .inl ⟨_, rfl⟩ | exact .inr ⟨_, rfl⟩ | simp [Instr.mnemonic] at hm
    rcases hj with ⟨addr, ho⟩ | ⟨ptr, ho⟩
    · rw [ho] at hx
      exact ⟨_, hx, by simp, by simp, .inl (by simp), .inl (by simp)⟩
    · rw [ho] at hx
      rcases read16_cases s ptr with ⟨hp, hf, hr⟩ | ⟨-, hr⟩
      · refine ⟨s.raise (.outOfRangeAccess 0xFFFF), ?_, rfl, rfl, .inl rfl, .inr (.inr (.inl ⟨hm, ?_, hf, rfl⟩))⟩
        · rw [hx]; simp only [jumpForm, effectiveAddress, hr, complete]
        · rw [ho, hp]
      · refine ⟨s.advance 3 (s.setPc (leWord (s.mem.read ptr) (s.mem.read (ptr + 1)))), ?_, by simp, by simp,
          .inl (by simp), .inl (by simp)⟩
        rw [hx]; simp only [jumpForm, effectiveAddress, hr, complete]; rfl

end Sys2Proof.Machine
end

