-- ==== Sys2Proof/Laws/Flags.lean ====
section
/-! SUPPORT. The flag computations and shifters in numbers, and what a zero-page pointer is. -/

namespace Sys2Proof.Machine

/-- The top bit of a byte says whether it is 128 or more. -/
theorem bit7_eq (x : Byte) : x.getLsbD 7 = decide (128 ≤ x.toNat) := by
  rw [BitVec.getLsbD, Nat.testBit_eq_decide_div_mod_eq]
  have := x.isLt
  apply decide_eq_decide.mpr; omega

/-- N and Z after `SetNZ` (R160). -/
theorem setNZ_eq (p : Status) (v : Byte) : p.setNZ v = { p with n := v.getLsbD 7, z := decide (v = 0) } := by
  simp [Status.setNZ, BitVec.msb_eq_getLsbD_last]
  exact Bool.beq_eq_decide_eq v 0#8

/-- No value makes `SetNZ` set both flags. -/
theorem setNZ_not_both (v : Byte) : ¬ (v.msb = true ∧ (v == 0) = true) := by
  rintro ⟨h1, h2⟩
  have : v = 0 := by simpa using h2
  subst this
  revert h1; decide

/-- The complement of a byte in numbers (R9). -/
theorem complement_eq (m : Byte) : ~~~m = BitVec.ofNat 8 (0xFF - m.toNat) := by
  apply BitVec.eq_of_toNat_eq
  have := m.isLt
  simp [BitVec.toNat_not]; omega

/-- The 8-bit difference in numbers (R275). -/
theorem difference_eq (r m : Byte) : r - m = BitVec.ofNat 8 (r.toNat + 256 - m.toNat) := by
  apply BitVec.eq_of_toNat_eq
  have := m.isLt
  have := r.isLt
  simp [BitVec.toNat_sub]; omega

/-- A left shift in numbers (R181). -/
theorem shiftLeft_eq (v : Byte) : v <<< 1 = BitVec.ofNat 8 (2 * v.toNat) := by
  apply BitVec.eq_of_toNat_eq; simp [BitVec.toNat_shiftLeft, Nat.shiftLeft_eq]; omega

/-- A right shift in numbers (R182). -/
theorem shiftRight_eq (v : Byte) : v >>> 1 = BitVec.ofNat 8 (v.toNat / 2) := by
  apply BitVec.eq_of_toNat_eq
  have := v.isLt
  simp [BitVec.toNat_ushiftRight, Nat.shiftRight_eq_div_pow]; omega

/-- The adder's result and carry in numbers (R161). -/
theorem adder_sum (a m : Byte) (c : Bool) :
    (adder a m c).sum.toNat = (a.toNat + m.toNat + c.toNat) % 256 ∧
      ((adder a m c).carry = true ↔ 255 < a.toNat + m.toNat + c.toNat) := by
  simp [adder]

/-- The adder's overflow is the sign rule of R163. -/
theorem adder_overflow (a m : Byte) (c : Bool) :
    (adder a m c).overflow = ((a ^^^ (adder a m c).sum) &&& (m ^^^ (adder a m c).sum)).getLsbD 7 := by
  have hs := (adder_sum a m c).1
  have ha := a.isLt
  have hm := m.isLt
  have hc : c.toNat ≤ 1 := by cases c <;> simp
  have hci : c.toInt = c.toNat := by cases c <;> rfl
  show decide (a.toInt + m.toInt + c.toInt < -128 ∨ 127 < a.toInt + m.toInt + c.toInt) = _
  rw [BitVec.getLsbD_and, BitVec.getLsbD_xor, BitVec.getLsbD_xor, bit7_eq, bit7_eq, bit7_eq, hci,
    BitVec.toInt_eq_toNat_cond, BitVec.toInt_eq_toNat_cond, hs]
  by_cases h1 : 128 ≤ a.toNat <;> by_cases h2 : 128 ≤ m.toNat <;>
    by_cases h3 : 128 ≤ (a.toNat + m.toNat + c.toNat) % 256 <;> simp [h1, h2, h3] <;> (repeat' split) <;> omega

/-- A byte widened to an address, in numbers. -/
theorem zext16_eq (p : Byte) : zext16 p = BitVec.ofNat 16 p.toNat := by
  apply BitVec.eq_of_toNat_eq; rw [zext16_toNat]; have := p.isLt; simp; omega

/-- What a zero-page pointer is (R133): only at 0xFF does the parameter matter. -/
theorem zpPointer_cases (s : State) (p : Byte) :
    (p ≠ 0xFF ∧ zpPointer s p = leWord (s.mem.read (zext16 p)) (s.mem.read (zext16 p + 1))) ∨
    (p = 0xFF ∧ s.cfg.zpPtrWrap = .pageZero ∧ zpPointer s p = leWord (s.mem.read 0x00FF) (s.mem.read 0x0000)) ∨
    (p = 0xFF ∧ s.cfg.zpPtrWrap = .linear ∧ zpPointer s p = leWord (s.mem.read 0x00FF) (s.mem.read 0x0100)) := by
  by_cases hp : p = 0xFF
  · subst hp
    cases hw : s.cfg.zpPtrWrap
    · exact .inr (.inl ⟨rfl, rfl, by unfold zpPointer; rw [hw]; rfl⟩)
    · exact .inr (.inr ⟨rfl, rfl, by unfold zpPointer; rw [hw]; rfl⟩)
  · refine .inl ⟨hp, ?_⟩
    have hn : p.toNat ≠ 0xFF := fun h => hp (BitVec.eq_of_toNat_eq h)
    have hlt := p.isLt
    have : zext16 (p + 1) = zext16 p + 1 := by
      apply BitVec.eq_of_toNat_eq
      rw [zext16_toNat, BitVec.toNat_add, BitVec.toNat_add, zext16_toNat]
      simp; omega
    unfold zpPointer
    rw [this]
    cases s.cfg.zpPtrWrap <;> rfl

end Sys2Proof.Machine
end

