-- ==== Sys2Proof/Laws/PerInstr.lean ====
section
/-! SUPPORT. The statements made per instruction: one lemma for each constructor of `Instr`. -/

/-- The encoder's opcode byte is in the table, in a row of the instruction's own mnemonic and mode, the encoding has the
length of that row, and the row's handler form is the instruction (R90, R91, R92, R102). -/
def Sys2Proof.Laws.EncodesAsItsRow.Statement (i : Sys2Proof.Instr) : Prop :=
  ∃ r : Sys2Proof.Row, Sys2Proof.tableRow i.opcode = some r ∧ r.mnemonic = i.mnemonic ∧ r.mode = i.mode ∧
    (Sys2Proof.encode i).length = r.length ∧ Sys2Proof.assemble r.mnemonic i.operand = some i

namespace Sys2Proof.Laws.EncodesAsItsRow

open Sys2Proof

theorem adcImmediate (imm : Byte) : Statement (.adcImmediate imm) := ⟨⟨0x69, .adc, .immediate, 2, .base⟩, rfl, rfl, rfl, rfl, rfl⟩

theorem adcZeroPage (zp : Byte) : Statement (.adcZeroPage zp) := ⟨⟨0x65, .adc, .zeroPage, 3, .base⟩, rfl, rfl, rfl, rfl, rfl⟩

theorem adcZeroPageX (zp : Byte) : Statement (.adcZeroPageX zp) := ⟨⟨0x75, .adc, .zeroPageX, 4, .base⟩, rfl, rfl, rfl, rfl, rfl⟩

theorem adcAbsolute (addr : Word) : Statement (.adcAbsolute addr) := ⟨⟨0x6D, .adc, .absolute, 4, .base⟩, rfl, rfl, rfl, rfl, rfl⟩

theorem adcAbsoluteX (addr : Word) : Statement (.adcAbsoluteX addr) := ⟨⟨0x7D, .adc, .absoluteX, 4, .base⟩, rfl, rfl, rfl, rfl, rfl⟩

theorem adcAbsoluteY (addr : Word) : Statement (.adcAbsoluteY addr) := ⟨⟨0x79, .adc, .absoluteY, 4, .base⟩, rfl, rfl, rfl, rfl, rfl⟩

theorem adcIndirectX (zp : Byte) : Statement (.adcIndirectX zp) := ⟨⟨0x61, .adc, .indirectX, 6, .base⟩, rfl, rfl, rfl, rfl, rfl⟩

theorem adcIndirectY (zp : Byte) : Statement (.adcIndirectY zp) := ⟨⟨0x71, .adc, .indirectY, 5, .base⟩, rfl, rfl, rfl, rfl, rfl⟩

theorem sbcImmediate (imm : Byte) : Statement (.sbcImmediate imm) := ⟨⟨0xE9, .sbc, .immediate, 2, .base⟩, rfl, rfl, rfl, rfl, rfl⟩

theorem sbcZeroPage (zp : Byte) : Statement (.sbcZeroPage zp) := ⟨⟨0xE5, .sbc, .zeroPage, 3, .base⟩, rfl, rfl, rfl, rfl, rfl⟩

theorem sbcZeroPageX (zp : Byte) : Statement (.sbcZeroPageX zp) := ⟨⟨0xF5, .sbc, .zeroPageX, 4, .base⟩, rfl, rfl, rfl, rfl, rfl⟩

theorem sbcAbsolute (addr : Word) : Statement (.sbcAbsolute addr) := ⟨⟨0xED, .sbc, .absolute, 4, .base⟩, rfl, rfl, rfl, rfl, rfl⟩

theorem sbcAbsoluteX (addr : Word) : Statement (.sbcAbsoluteX addr) := ⟨⟨0xFD, .sbc, .absoluteX, 4, .base⟩, rfl, rfl, rfl, rfl, rfl⟩

theorem sbcAbsoluteY (addr : Word) : Statement (.sbcAbsoluteY addr) := ⟨⟨0xF9, .sbc, .absoluteY, 4, .base⟩, rfl, rfl, rfl, rfl, rfl⟩

theorem sbcIndirectX (zp : Byte) : Statement (.sbcIndirectX zp) := ⟨⟨0xE1, .sbc, .indirectX, 6, .base⟩, rfl, rfl, rfl, rfl, rfl⟩

theorem sbcIndirectY (zp : Byte) : Statement (.sbcIndirectY zp) := ⟨⟨0xF1, .sbc, .indirectY, 5, .base⟩, rfl, rfl, rfl, rfl, rfl⟩

theorem aslAccumulator : Statement .aslAccumulator := ⟨⟨0x0A, .asl, .accumulator, 2, .base⟩, rfl, rfl, rfl, rfl, rfl⟩

theorem aslZeroPage (zp : Byte) : Statement (.aslZeroPage zp) := ⟨⟨0x06, .asl, .zeroPage, 5, .base⟩, rfl, rfl, rfl, rfl, rfl⟩

theorem aslZeroPageX (zp : Byte) : Statement (.aslZeroPageX zp) := ⟨⟨0x16, .asl, .zeroPageX, 6, .base⟩, rfl, rfl, rfl, rfl, rfl⟩

theorem aslAbsolute (addr : Word) : Statement (.aslAbsolute addr) := ⟨⟨0x0E, .asl, .absolute, 6, .base⟩, rfl, rfl, rfl, rfl, rfl⟩

theorem aslAbsoluteX (addr : Word) : Statement (.aslAbsoluteX addr) := ⟨⟨0x1E, .asl, .absoluteX, 7, .base⟩, rfl, rfl, rfl, rfl, rfl⟩

theorem lsrAccumulator : Statement .lsrAccumulator := ⟨⟨0x4A, .lsr, .accumulator, 2, .base⟩, rfl, rfl, rfl, rfl, rfl⟩

theorem lsrZeroPage (zp : Byte) : Statement (.lsrZeroPage zp) := ⟨⟨0x46, .lsr, .zeroPage, 5, .base⟩, rfl, rfl, rfl, rfl, rfl⟩

theorem lsrZeroPageX (zp : Byte) : Statement (.lsrZeroPageX zp) := ⟨⟨0x56, .lsr, .zeroPageX, 6, .base⟩, rfl, rfl, rfl, rfl, rfl⟩

theorem lsrAbsolute (addr : Word) : Statement (.lsrAbsolute addr) := ⟨⟨0x4E, .lsr, .absolute, 6, .base⟩, rfl, rfl, rfl, rfl, rfl⟩

theorem lsrAbsoluteX (addr : Word) : Statement (.lsrAbsoluteX addr) := ⟨⟨0x5E, .lsr, .absoluteX, 7, .base⟩, rfl, rfl, rfl, rfl, rfl⟩

theorem rolAccumulator : Statement .rolAccumulator := ⟨⟨0x2A, .rol, .accumulator, 2, .base⟩, rfl, rfl, rfl, rfl, rfl⟩

theorem rolZeroPage (zp : Byte) : Statement (.rolZeroPage zp) := ⟨⟨0x26, .rol, .zeroPage, 5, .base⟩, rfl, rfl, rfl, rfl, rfl⟩

theorem rolZeroPageX (zp : Byte) : Statement (.rolZeroPageX zp) := ⟨⟨0x36, .rol, .zeroPageX, 6, .base⟩, rfl, rfl, rfl, rfl, rfl⟩

theorem rolAbsolute (addr : Word) : Statement (.rolAbsolute addr) := ⟨⟨0x2E, .rol, .absolute, 6, .base⟩, rfl, rfl, rfl, rfl, rfl⟩

theorem rolAbsoluteX (addr : Word) : Statement (.rolAbsoluteX addr) := ⟨⟨0x3E, .rol, .absoluteX, 7, .base⟩, rfl, rfl, rfl, rfl, rfl⟩

theorem rorAccumulator : Statement .rorAccumulator := ⟨⟨0x6A, .ror, .accumulator, 2, .base⟩, rfl, rfl, rfl, rfl, rfl⟩

theorem rorZeroPage (zp : Byte) : Statement (.rorZeroPage zp) := ⟨⟨0x66, .ror, .zeroPage, 5, .base⟩, rfl, rfl, rfl, rfl, rfl⟩

theorem rorZeroPageX (zp : Byte) : Statement (.rorZeroPageX zp) := ⟨⟨0x76, .ror, .zeroPageX, 6, .base⟩, rfl, rfl, rfl, rfl, rfl⟩

theorem rorAbsolute (addr : Word) : Statement (.rorAbsolute addr) := ⟨⟨0x6E, .ror, .absolute, 6, .base⟩, rfl, rfl, rfl, rfl, rfl⟩

theorem rorAbsoluteX (addr : Word) : Statement (.rorAbsoluteX addr) := ⟨⟨0x7E, .ror, .absoluteX, 7, .base⟩, rfl, rfl, rfl, rfl, rfl⟩

theorem bcc (rel : Byte) : Statement (.bcc rel) := ⟨⟨0x90, .bcc, .relative, 2, .base⟩, rfl, rfl, rfl, rfl, rfl⟩

theorem bcs (rel : Byte) : Statement (.bcs rel) := ⟨⟨0xB0, .bcs, .relative, 2, .base⟩, rfl, rfl, rfl, rfl, rfl⟩

theorem jmpAbsolute (addr : Word) : Statement (.jmpAbsolute addr) := ⟨⟨0x4C, .jmp, .absolute, 3, .base⟩, rfl, rfl, rfl, rfl, rfl⟩

theorem jmpIndirect (ptr : Word) : Statement (.jmpIndirect ptr) := ⟨⟨0x6C, .jmp, .indirect, 5, .base⟩, rfl, rfl, rfl, rfl, rfl⟩

theorem ldaImmediate (imm : Byte) : Statement (.ldaImmediate imm) := ⟨⟨0xA9, .lda, .immediate, 2, .base⟩, rfl, rfl, rfl, rfl, rfl⟩

theorem ldaZeroPage (zp : Byte) : Statement (.ldaZeroPage zp) := ⟨⟨0xA5, .lda, .zeroPage, 3, .base⟩, rfl, rfl, rfl, rfl, rfl⟩

theorem ldaZeroPageX (zp : Byte) : Statement (.ldaZeroPageX zp) := ⟨⟨0xB5, .lda, .zeroPageX, 4, .base⟩, rfl, rfl, rfl, rfl, rfl⟩

theorem ldaAbsolute (addr : Word) : Statement (.ldaAbsolute addr) := ⟨⟨0xAD, .lda, .absolute, 4, .base⟩, rfl, rfl, rfl, rfl, rfl⟩

theorem ldaAbsoluteX (addr : Word) : Statement (.ldaAbsoluteX addr) := ⟨⟨0xBD, .lda, .absoluteX, 4, .base⟩, rfl, rfl, rfl, rfl, rfl⟩

theorem ldaAbsoluteY (addr : Word) : Statement (.ldaAbsoluteY addr) := ⟨⟨0xB9, .lda, .absoluteY, 4, .base⟩, rfl, rfl, rfl, rfl, rfl⟩

theorem ldaIndirectX (zp : Byte) : Statement (.ldaIndirectX zp) := ⟨⟨0xA1, .lda, .indirectX, 6, .base⟩, rfl, rfl, rfl, rfl, rfl⟩

theorem ldaIndirectY (zp : Byte) : Statement (.ldaIndirectY zp) := ⟨⟨0xB1, .lda, .indirectY, 5, .base⟩, rfl, rfl, rfl, rfl, rfl⟩

theorem ldxImmediate (imm : Byte) : Statement (.ldxImmediate imm) := ⟨⟨0xA2, .ldx, .immediate, 2, .base⟩, rfl, rfl, rfl, rfl, rfl⟩

theorem ldxZeroPage (zp : Byte) : Statement (.ldxZeroPage zp) := ⟨⟨0xA6, .ldx, .zeroPage, 3, .base⟩, rfl, rfl, rfl, rfl, rfl⟩

theorem ldxZeroPageY (zp : Byte) : Statement (.ldxZeroPageY zp) := ⟨⟨0xB6, .ldx, .zeroPageY, 4, .base⟩, rfl, rfl, rfl, rfl, rfl⟩

theorem ldxAbsolute (addr : Word) : Statement (.ldxAbsolute addr) := ⟨⟨0xAE, .ldx, .absolute, 4, .base⟩, rfl, rfl, rfl, rfl, rfl⟩

theorem ldxAbsoluteY (addr : Word) : Statement (.ldxAbsoluteY addr) := ⟨⟨0xBE, .ldx, .absoluteY, 4, .base⟩, rfl, rfl, rfl, rfl, rfl⟩

theorem ldyImmediate (imm : Byte) : Statement (.ldyImmediate imm) := ⟨⟨0xA0, .ldy, .immediate, 2, .base⟩, rfl, rfl, rfl, rfl, rfl⟩

theorem ldyZeroPage (zp : Byte) : Statement (.ldyZeroPage zp) := ⟨⟨0xA4, .ldy, .zeroPage, 3, .base⟩, rfl, rfl, rfl, rfl, rfl⟩

theorem ldyZeroPageX (zp : Byte) : Statement (.ldyZeroPageX zp) := ⟨⟨0xB4, .ldy, .zeroPageX, 4, .base⟩, rfl, rfl, rfl, rfl, rfl⟩

theorem ldyAbsolute (addr : Word) : Statement (.ldyAbsolute addr) := ⟨⟨0xAC, .ldy, .absolute, 4, .base⟩, rfl, rfl, rfl, rfl, rfl⟩

theorem ldyAbsoluteX (addr : Word) : Statement (.ldyAbsoluteX addr) := ⟨⟨0xBC, .ldy, .absoluteX, 4, .base⟩, rfl, rfl, rfl, rfl, rfl⟩

theorem staZeroPage (zp : Byte) : Statement (.staZeroPage zp) := ⟨⟨0x85, .sta, .zeroPage, 3, .base⟩, rfl, rfl, rfl, rfl, rfl⟩

theorem staZeroPageX (zp : Byte) : Statement (.staZeroPageX zp) := ⟨⟨0x95, .sta, .zeroPageX, 4, .base⟩, rfl, rfl, rfl, rfl, rfl⟩

theorem staAbsolute (addr : Word) : Statement (.staAbsolute addr) := ⟨⟨0x8D, .sta, .absolute, 4, .base⟩, rfl, rfl, rfl, rfl, rfl⟩

theorem staAbsoluteX (addr : Word) : Statement (.staAbsoluteX addr) := ⟨⟨0x9D, .sta, .absoluteX, 5, .base⟩, rfl, rfl, rfl, rfl, rfl⟩

theorem staAbsoluteY (addr : Word) : Statement (.staAbsoluteY addr) := ⟨⟨0x99, .sta, .absoluteY, 5, .base⟩, rfl, rfl, rfl, rfl, rfl⟩

theorem staIndirectX (zp : Byte) : Statement (.staIndirectX zp) := ⟨⟨0x81, .sta, .indirectX, 6, .base⟩, rfl, rfl, rfl, rfl, rfl⟩

theorem staIndirectY (zp : Byte) : Statement (.staIndirectY zp) := ⟨⟨0x91, .sta, .indirectY, 6, .base⟩, rfl, rfl, rfl, rfl, rfl⟩

theorem stxZeroPage (zp : Byte) : Statement (.stxZeroPage zp) := ⟨⟨0x86, .stx, .zeroPage, 3, .base⟩, rfl, rfl, rfl, rfl, rfl⟩

theorem stxZeroPageY (zp : Byte) : Statement (.stxZeroPageY zp) := ⟨⟨0x96, .stx, .zeroPageY, 4, .base⟩, rfl, rfl, rfl, rfl, rfl⟩

theorem stxAbsolute (addr : Word) : Statement (.stxAbsolute addr) := ⟨⟨0x8E, .stx, .absolute, 4, .base⟩, rfl, rfl, rfl, rfl, rfl⟩

theorem styZeroPage (zp : Byte) : Statement (.styZeroPage zp) := ⟨⟨0x84, .sty, .zeroPage, 3, .base⟩, rfl, rfl, rfl, rfl, rfl⟩

theorem styZeroPageX (zp : Byte) : Statement (.styZeroPageX zp) := ⟨⟨0x94, .sty, .zeroPageX, 4, .base⟩, rfl, rfl, rfl, rfl, rfl⟩

theorem styAbsolute (addr : Word) : Statement (.styAbsolute addr) := ⟨⟨0x8C, .sty, .absolute, 4, .base⟩, rfl, rfl, rfl, rfl, rfl⟩

theorem tax : Statement .tax := ⟨⟨0xAA, .tax, .noneAddressing, 2, .base⟩, rfl, rfl, rfl, rfl, rfl⟩

theorem tay : Statement .tay := ⟨⟨0xA8, .tay, .noneAddressing, 2, .base⟩, rfl, rfl, rfl, rfl, rfl⟩

theorem txa : Statement .txa := ⟨⟨0x8A, .txa, .noneAddressing, 2, .base⟩, rfl, rfl, rfl, rfl, rfl⟩

theorem tya : Statement .tya := ⟨⟨0x98, .tya, .noneAddressing, 2, .base⟩, rfl, rfl, rfl, rfl, rfl⟩

theorem clc : Statement .clc := ⟨⟨0x18, .clc, .noneAddressing, 2, .base⟩, rfl, rfl, rfl, rfl, rfl⟩

theorem sec : Statement .sec := ⟨⟨0x38, .sec, .noneAddressing, 2, .base⟩, rfl, rfl, rfl, rfl, rfl⟩

theorem cli : Statement .cli := ⟨⟨0x58, .cli, .noneAddressing, 2, .base⟩, rfl, rfl, rfl, rfl, rfl⟩

theorem sei : Statement .sei := ⟨⟨0x78, .sei, .noneAddressing, 2, .base⟩, rfl, rfl, rfl, rfl, rfl⟩

theorem cld : Statement .cld := ⟨⟨0xD8, .cld, .noneAddressing, 2, .base⟩, rfl, rfl, rfl, rfl, rfl⟩

theorem sed : Statement .sed := ⟨⟨0xF8, .sed, .noneAddressing, 2, .base⟩, rfl, rfl, rfl, rfl, rfl⟩

theorem clv : Statement .clv := ⟨⟨0xB8, .clv, .noneAddressing, 2, .base⟩, rfl, rfl, rfl, rfl, rfl⟩

theorem inx : Statement .inx := ⟨⟨0xE8, .inx, .noneAddressing, 2, .base⟩, rfl, rfl, rfl, rfl, rfl⟩

theorem brk : Statement .brk := ⟨⟨0x00, .brk, .noneAddressing, 7, .base⟩, rfl, rfl, rfl, rfl, rfl⟩

theorem andImmediate (imm : Byte) : Statement (.andImmediate imm) := ⟨⟨0x29, .and, .immediate, 2, .logic⟩, rfl, rfl, rfl, rfl, rfl⟩

theorem andZeroPage (zp : Byte) : Statement (.andZeroPage zp) := ⟨⟨0x25, .and, .zeroPage, 3, .logic⟩, rfl, rfl, rfl, rfl, rfl⟩

theorem andZeroPageX (zp : Byte) : Statement (.andZeroPageX zp) := ⟨⟨0x35, .and, .zeroPageX, 4, .logic⟩, rfl, rfl, rfl, rfl, rfl⟩

theorem andAbsolute (addr : Word) : Statement (.andAbsolute addr) := ⟨⟨0x2D, .and, .absolute, 4, .logic⟩, rfl, rfl, rfl, rfl, rfl⟩

theorem andAbsoluteX (addr : Word) : Statement (.andAbsoluteX addr) := ⟨⟨0x3D, .and, .absoluteX, 4, .logic⟩, rfl, rfl, rfl, rfl, rfl⟩

theorem andAbsoluteY (addr : Word) : Statement (.andAbsoluteY addr) := ⟨⟨0x39, .and, .absoluteY, 4, .logic⟩, rfl, rfl, rfl, rfl, rfl⟩

theorem andIndirectX (zp : Byte) : Statement (.andIndirectX zp) := ⟨⟨0x21, .and, .indirectX, 6, .logic⟩, rfl, rfl, rfl, rfl, rfl⟩

theorem andIndirectY (zp : Byte) : Statement (.andIndirectY zp) := ⟨⟨0x31, .and, .indirectY, 5, .logic⟩, rfl, rfl, rfl, rfl, rfl⟩

theorem oraImmediate (imm : Byte) : Statement (.oraImmediate imm) := ⟨⟨0x09, .ora, .immediate, 2, .logic⟩, rfl, rfl, rfl, rfl, rfl⟩

theorem oraZeroPage (zp : Byte) : Statement (.oraZeroPage zp) := ⟨⟨0x05, .ora, .zeroPage, 3, .logic⟩, rfl, rfl, rfl, rfl, rfl⟩

theorem oraZeroPageX (zp : Byte) : Statement (.oraZeroPageX zp) := ⟨⟨0x15, .ora, .zeroPageX, 4, .logic⟩, rfl, rfl, rfl, rfl, rfl⟩

theorem oraAbsolute (addr : Word) : Statement (.oraAbsolute addr) := ⟨⟨0x0D, .ora, .absolute, 4, .logic⟩, rfl, rfl, rfl, rfl, rfl⟩

theorem oraAbsoluteX (addr : Word) : Statement (.oraAbsoluteX addr) := ⟨⟨0x1D, .ora, .absoluteX, 4, .logic⟩, rfl, rfl, rfl, rfl, rfl⟩

theorem oraAbsoluteY (addr : Word) : Statement (.oraAbsoluteY addr) := ⟨⟨0x19, .ora, .absoluteY, 4, .logic⟩, rfl, rfl, rfl, rfl, rfl⟩

theorem oraIndirectX (zp : Byte) : Statement (.oraIndirectX zp) := ⟨⟨0x01, .ora, .indirectX, 6, .logic⟩, rfl, rfl, rfl, rfl, rfl⟩

theorem oraIndirectY (zp : Byte) : Statement (.oraIndirectY zp) := ⟨⟨0x11, .ora, .indirectY, 5, .logic⟩, rfl, rfl, rfl, rfl, rfl⟩

theorem eorImmediate (imm : Byte) : Statement (.eorImmediate imm) := ⟨⟨0x49, .eor, .immediate, 2, .logic⟩, rfl, rfl, rfl, rfl, rfl⟩

theorem eorZeroPage (zp : Byte) : Statement (.eorZeroPage zp) := ⟨⟨0x45, .eor, .zeroPage, 3, .logic⟩, rfl, rfl, rfl, rfl, rfl⟩

theorem eorZeroPageX (zp : Byte) : Statement (.eorZeroPageX zp) := ⟨⟨0x55, .eor, .zeroPageX, 4, .logic⟩, rfl, rfl, rfl, rfl, rfl⟩

theorem eorAbsolute (addr : Word) : Statement (.eorAbsolute addr) := ⟨⟨0x4D, .eor, .absolute, 4, .logic⟩, rfl, rfl, rfl, rfl, rfl⟩

theorem eorAbsoluteX (addr : Word) : Statement (.eorAbsoluteX addr) := ⟨⟨0x5D, .eor, .absoluteX, 4, .logic⟩, rfl, rfl, rfl, rfl, rfl⟩

theorem eorAbsoluteY (addr : Word) : Statement (.eorAbsoluteY addr) := ⟨⟨0x59, .eor, .absoluteY, 4, .logic⟩, rfl, rfl, rfl, rfl, rfl⟩

theorem eorIndirectX (zp : Byte) : Statement (.eorIndirectX zp) := ⟨⟨0x41, .eor, .indirectX, 6, .logic⟩, rfl, rfl, rfl, rfl, rfl⟩

theorem eorIndirectY (zp : Byte) : Statement (.eorIndirectY zp) := ⟨⟨0x51, .eor, .indirectY, 5, .logic⟩, rfl, rfl, rfl, rfl, rfl⟩

theorem bitZeroPage (zp : Byte) : Statement (.bitZeroPage zp) := ⟨⟨0x24, .bit, .zeroPage, 3, .logic⟩, rfl, rfl, rfl, rfl, rfl⟩

theorem bitAbsolute (addr : Word) : Statement (.bitAbsolute addr) := ⟨⟨0x2C, .bit, .absolute, 4, .logic⟩, rfl, rfl, rfl, rfl, rfl⟩

theorem cmpImmediate (imm : Byte) : Statement (.cmpImmediate imm) := ⟨⟨0xC9, .cmp, .immediate, 2, .compare⟩, rfl, rfl, rfl, rfl, rfl⟩

theorem cmpZeroPage (zp : Byte) : Statement (.cmpZeroPage zp) := ⟨⟨0xC5, .cmp, .zeroPage, 3, .compare⟩, rfl, rfl, rfl, rfl, rfl⟩

theorem cmpZeroPageX (zp : Byte) : Statement (.cmpZeroPageX zp) := ⟨⟨0xD5, .cmp, .zeroPageX, 4, .compare⟩, rfl, rfl, rfl, rfl, rfl⟩

theorem cmpAbsolute (addr : Word) : Statement (.cmpAbsolute addr) := ⟨⟨0xCD, .cmp, .absolute, 4, .compare⟩, rfl, rfl, rfl, rfl, rfl⟩

theorem cmpAbsoluteX (addr : Word) : Statement (.cmpAbsoluteX addr) := ⟨⟨0xDD, .cmp, .absoluteX, 4, .compare⟩, rfl, rfl, rfl, rfl, rfl⟩

theorem cmpAbsoluteY (addr : Word) : Statement (.cmpAbsoluteY addr) := ⟨⟨0xD9, .cmp, .absoluteY, 4, .compare⟩, rfl, rfl, rfl, rfl, rfl⟩

theorem cmpIndirectX (zp : Byte) : Statement (.cmpIndirectX zp) := ⟨⟨0xC1, .cmp, .indirectX, 6, .compare⟩, rfl, rfl, rfl, rfl, rfl⟩

theorem cmpIndirectY (zp : Byte) : Statement (.cmpIndirectY zp) := ⟨⟨0xD1, .cmp, .indirectY, 5, .compare⟩, rfl, rfl, rfl, rfl, rfl⟩

theorem cpxImmediate (imm : Byte) : Statement (.cpxImmediate imm) := ⟨⟨0xE0, .cpx, .immediate, 2, .compare⟩, rfl, rfl, rfl, rfl, rfl⟩

theorem cpxZeroPage (zp : Byte) : Statement (.cpxZeroPage zp) := ⟨⟨0xE4, .cpx, .zeroPage, 3, .compare⟩, rfl, rfl, rfl, rfl, rfl⟩

theorem cpxAbsolute (addr : Word) : Statement (.cpxAbsolute addr) := ⟨⟨0xEC, .cpx, .absolute, 4, .compare⟩, rfl, rfl, rfl, rfl, rfl⟩

theorem cpyImmediate (imm : Byte) : Statement (.cpyImmediate imm) := ⟨⟨0xC0, .cpy, .immediate, 2, .compare⟩, rfl, rfl, rfl, rfl, rfl⟩

theorem cpyZeroPage (zp : Byte) : Statement (.cpyZeroPage zp) := ⟨⟨0xC4, .cpy, .zeroPage, 3, .compare⟩, rfl, rfl, rfl, rfl, rfl⟩

theorem cpyAbsolute (addr : Word) : Statement (.cpyAbsolute addr) := ⟨⟨0xCC, .cpy, .absolute, 4, .compare⟩, rfl, rfl, rfl, rfl, rfl⟩

theorem bpl (rel : Byte) : Statement (.bpl rel) := ⟨⟨0x10, .bpl, .relative, 2, .branch⟩, rfl, rfl, rfl, rfl, rfl⟩

theorem bmi (rel : Byte) : Statement (.bmi rel) := ⟨⟨0x30, .bmi, .relative, 2, .branch⟩, rfl, rfl, rfl, rfl, rfl⟩

theorem bvc (rel : Byte) : Statement (.bvc rel) := ⟨⟨0x50, .bvc, .relative, 2, .branch⟩, rfl, rfl, rfl, rfl, rfl⟩

theorem bvs (rel : Byte) : Statement (.bvs rel) := ⟨⟨0x70, .bvs, .relative, 2, .branch⟩, rfl, rfl, rfl, rfl, rfl⟩

theorem bne (rel : Byte) : Statement (.bne rel) := ⟨⟨0xD0, .bne, .relative, 2, .branch⟩, rfl, rfl, rfl, rfl, rfl⟩

theorem beq (rel : Byte) : Statement (.beq rel) := ⟨⟨0xF0, .beq, .relative, 2, .branch⟩, rfl, rfl, rfl, rfl, rfl⟩

end Sys2Proof.Laws.EncodesAsItsRow
end

