-- ==== Sys2Proof/Laws/Run.lean ====
section
/-! SUPPORT. What one step of a run does, and what a load and an interpretation can answer. -/

namespace Sys2Proof.Machine

/-- A step reports a halt exactly when it ends in the phase Halted (R308). -/
theorem haltReason_eq_some (s : State) (r : HaltReason) : s.haltReason = some r ↔ s.phase = .halted r := by
  cases h : s.phase <;> simp [State.haltReason, h]

theorem haltReason_eq_none (s : State) : s.haltReason = none ↔ ∀ r, s.phase ≠ .halted r := by
  cases h : s.phase <;> simp [State.haltReason, h]

/-- A run ends at a step that ends in the phase Halted (R309). -/
theorem run_halts (n : Nat) (s t : State) (r : HaltReason) (h : step s = .next t) (hr : t.phase = .halted r) :
    State.run (n + 1) s = .halted r t := by
  simp only [State.run, h, (haltReason_eq_some t r).mpr hr]

/-- A run goes on from a step that ends in no such phase (R309). -/
theorem run_goes_on (n : Nat) (s t : State) (h : step s = .next t) (hr : ∀ r, t.phase ≠ .halted r) :
    State.run (n + 1) s = State.run n t := by
  simp only [State.run, h, (haltReason_eq_none t).mpr hr]

/-- The three things a run with fuel can do first: lack a step, halt at it, or go on from it. -/
theorem run_cases (n : Nat) (s : State) :
    ((∀ t, step s ≠ .next t) ∧ State.run (n + 1) s = .noStep) ∨
    (∃ t r, step s = .next t ∧ t.phase = .halted r ∧ State.run (n + 1) s = .halted r t) ∨
    ∃ t, step s = .next t ∧ (∀ r, t.phase ≠ .halted r) ∧ State.run (n + 1) s = State.run n t := by
  cases h : step s with
  | fault _ | refused _ => exact .inl ⟨by simp, by simp only [State.run, h]⟩
  | next t =>
    cases hr : t.haltReason with
    | some r =>
      have hr := (haltReason_eq_some t r).mp hr
      exact .inr (.inl ⟨t, r, rfl, hr, run_halts n s t r h hr⟩)
    | none =>
      have hr := (haltReason_eq_none t).mp hr
      exact .inr (.inr ⟨t, rfl, hr, run_goes_on n s t h hr⟩)

/-- An interpretation whose load succeeds runs from the reset of the loaded state (R365). -/
theorem interpret_ok (fuel : Nat) (s t : State) (program : List Byte) (h : s.load program = .ok t) :
    s.interpret fuel program = .ok (t.restart.run fuel) := by
  simp only [State.interpret, h]

/-- An interpretation whose load fails answers the failure and runs nothing (R365). -/
theorem interpret_error (fuel : Nat) (s : State) (program : List Byte) (e : MemoryError)
    (h : s.load program = .error e) : s.interpret fuel program = .error e := by
  simp only [State.interpret, h]

end Sys2Proof.Machine
end

