-- ==== Sys2Proof/Tests/Slice0.lean ====
section
/-! SUPPORT. The model's own tests: the well-formedness checks refuse what they must, every constructor's words decode to
it, one step of each instruction does what a vector of 95_test_vectors.md says, and every statement with hypotheses has a
state that meets them. Expected values come from the spec's tables, examples and vectors. -/

namespace Sys2Proof.Tests

open Sys2Proof Sys2Proof.Machine Sys2Proof.Claims

/-! ## Well-formedness -/

/-- Every optional group in the table. -/
def allGroups : Config := { Config.standard with extLogic := true, extCompare := true, extBranch := true }

/-- The check on an instruction refuses one of each optional group in the default configuration (R100). -/
theorem test_wf_refuses_absent_groups :
    (Instr.andImmediate 0x0F).wf Config.standard = false ∧ (Instr.cmpImmediate 0x01).wf Config.standard = false ∧
    (Instr.beq 0x00).wf Config.standard = false := by decide

/-- The same instructions with their groups in the table, and a base instruction in the default one. -/
theorem test_wf_accepts_present_groups :
    (Instr.andImmediate 0x0F).wf allGroups = true ∧ (Instr.cmpImmediate 0x01).wf allGroups = true ∧
    (Instr.beq 0x00).wf allGroups = true ∧ (Instr.adcImmediate 0x01).wf Config.standard = true := by decide

/-- The check on an instruction refuses a base row that `BASE_OMIT` names (R7). -/
theorem test_wf_refuses_an_omitted_row :
    (Instr.adcImmediate 0x01).wf { Config.standard with baseOmit := [0x69] } = false := by decide

/-- The check on a configuration refuses a byte named twice, a byte of an optional group and an absent byte (R7). -/
theorem test_config_wf_refuses_what_is_no_set_of_base_opcodes :
    Config.wf { Config.standard with baseOmit := [0x69, 0x69] } = false ∧
    Config.wf { Config.standard with baseOmit := [0x29] } = false ∧
    Config.wf { Config.standard with baseOmit := [0xCA] } = false := by decide

/-- The default configuration and one with an omitted row are sound. -/
theorem test_config_wf_accepts : Config.standard.wf = true ∧ Config.wf { Config.standard with baseOmit := [0x69] } = true := by
  decide

/-- The memory check refuses a falling address, a repeated address, a listed 0x00 and an address past the top. -/
theorem test_memory_wf_refuses :
    Memory.wf [(5, 0x01), (4, 0x01)] = false ∧ Memory.wf [(4, 0x01), (4, 0x02)] = false ∧ Memory.wf [(4, 0x00)] = false ∧
    Memory.wf [(65536, 0x01)] = false ∧ Memory.wf [(4, 0x01), (5, 0x02)] = true := by decide

/-! ## Decoding

Every constructor, from its opcode byte in the tables of R96 and R100 and its operand bytes in the order of R92 and R93. -/

theorem test_decode_brk :
    decode [0x00] = .ok (.brk, []) := rfl

theorem test_decode_asl :
    decode [0x06, 0x43] = .ok (.aslZeroPage 0x43, []) ∧
    decode [0x0A] = .ok (.aslAccumulator, []) ∧
    decode [0x0E, 0x51, 0xF5] = .ok (.aslAbsolute 0xF551, []) ∧
    decode [0x16, 0x58] = .ok (.aslZeroPageX 0x58, []) ∧
    decode [0x1E, 0x5F, 0x0F] = .ok (.aslAbsoluteX 0x0F5F, []) := ⟨rfl, rfl, rfl, rfl, rfl⟩

theorem test_decode_clc :
    decode [0x18] = .ok (.clc, []) := rfl

theorem test_decode_rol :
    decode [0x26, 0x6D] = .ok (.rolZeroPage 0x6D, []) ∧
    decode [0x2A] = .ok (.rolAccumulator, []) ∧
    decode [0x2E, 0x7B, 0x43] = .ok (.rolAbsolute 0x437B, []) ∧
    decode [0x36, 0x82] = .ok (.rolZeroPageX 0x82, []) ∧
    decode [0x3E, 0x89, 0x5D] = .ok (.rolAbsoluteX 0x5D89, []) := ⟨rfl, rfl, rfl, rfl, rfl⟩

theorem test_decode_sec :
    decode [0x38] = .ok (.sec, []) := rfl

theorem test_decode_lsr :
    decode [0x46, 0x97] = .ok (.lsrZeroPage 0x97, []) ∧
    decode [0x4A] = .ok (.lsrAccumulator, []) ∧
    decode [0x4E, 0xA5, 0x91] = .ok (.lsrAbsolute 0x91A5, []) ∧
    decode [0x56, 0xAC] = .ok (.lsrZeroPageX 0xAC, []) ∧
    decode [0x5E, 0xB3, 0xAB] = .ok (.lsrAbsoluteX 0xABB3, []) := ⟨rfl, rfl, rfl, rfl, rfl⟩

theorem test_decode_jmp :
    decode [0x4C, 0xBA, 0xB8] = .ok (.jmpAbsolute 0xB8BA, []) ∧
    decode [0x6C, 0xC1, 0xC5] = .ok (.jmpIndirect 0xC5C1, []) := ⟨rfl, rfl⟩

theorem test_decode_cli :
    decode [0x58] = .ok (.cli, []) := rfl

theorem test_decode_adc :
    decode [0x61, 0xCF] = .ok (.adcIndirectX 0xCF, []) ∧
    decode [0x65, 0xD6] = .ok (.adcZeroPage 0xD6, []) ∧
    decode [0x69, 0xDD] = .ok (.adcImmediate 0xDD, []) ∧
    decode [0x6D, 0xE4, 0x06] = .ok (.adcAbsolute 0x06E4, []) ∧
    decode [0x71, 0xEB] = .ok (.adcIndirectY 0xEB, []) ∧
    decode [0x75, 0xF2] = .ok (.adcZeroPageX 0xF2, []) ∧
    decode [0x79, 0xF9, 0x2D] = .ok (.adcAbsoluteY 0x2DF9, []) ∧
    decode [0x7D, 0x00, 0x3A] = .ok (.adcAbsoluteX 0x3A00, []) := ⟨rfl, rfl, rfl, rfl, rfl, rfl, rfl, rfl⟩

theorem test_decode_ror :
    decode [0x66, 0x07] = .ok (.rorZeroPage 0x07, []) ∧
    decode [0x6A] = .ok (.rorAccumulator, []) ∧
    decode [0x6E, 0x15, 0x61] = .ok (.rorAbsolute 0x6115, []) ∧
    decode [0x76, 0x1C] = .ok (.rorZeroPageX 0x1C, []) ∧
    decode [0x7E, 0x23, 0x7B] = .ok (.rorAbsoluteX 0x7B23, []) := ⟨rfl, rfl, rfl, rfl, rfl⟩

theorem test_decode_sei :
    decode [0x78] = .ok (.sei, []) := rfl

theorem test_decode_sta :
    decode [0x81, 0x31] = .ok (.staIndirectX 0x31, []) ∧
    decode [0x85, 0x38] = .ok (.staZeroPage 0x38, []) ∧
    decode [0x8D, 0x3F, 0xAF] = .ok (.staAbsolute 0xAF3F, []) ∧
    decode [0x91, 0x46] = .ok (.staIndirectY 0x46, []) ∧
    decode [0x95, 0x4D] = .ok (.staZeroPageX 0x4D, []) ∧
    decode [0x99, 0x54, 0xD6] = .ok (.staAbsoluteY 0xD654, []) ∧
    decode [0x9D, 0x5B, 0xE3] = .ok (.staAbsoluteX 0xE35B, []) := ⟨rfl, rfl, rfl, rfl, rfl, rfl, rfl⟩

theorem test_decode_sty :
    decode [0x84, 0x62] = .ok (.styZeroPage 0x62, []) ∧
    decode [0x8C, 0x69, 0xFD] = .ok (.styAbsolute 0xFD69, []) ∧
    decode [0x94, 0x70] = .ok (.styZeroPageX 0x70, []) := ⟨rfl, rfl, rfl⟩

theorem test_decode_stx :
    decode [0x86, 0x77] = .ok (.stxZeroPage 0x77, []) ∧
    decode [0x8E, 0x7E, 0x24] = .ok (.stxAbsolute 0x247E, []) ∧
    decode [0x96, 0x85] = .ok (.stxZeroPageY 0x85, []) := ⟨rfl, rfl, rfl⟩

theorem test_decode_txa :
    decode [0x8A] = .ok (.txa, []) := rfl

theorem test_decode_bcc :
    decode [0x90, 0x93] = .ok (.bcc 0x93, []) := rfl

theorem test_decode_tya :
    decode [0x98] = .ok (.tya, []) := rfl

theorem test_decode_ldy :
    decode [0xA0, 0xA1] = .ok (.ldyImmediate 0xA1, []) ∧
    decode [0xA4, 0xA8] = .ok (.ldyZeroPage 0xA8, []) ∧
    decode [0xAC, 0xAF, 0x7F] = .ok (.ldyAbsolute 0x7FAF, []) ∧
    decode [0xB4, 0xB6] = .ok (.ldyZeroPageX 0xB6, []) ∧
    decode [0xBC, 0xBD, 0x99] = .ok (.ldyAbsoluteX 0x99BD, []) := ⟨rfl, rfl, rfl, rfl, rfl⟩

theorem test_decode_lda :
    decode [0xA1, 0xC4] = .ok (.ldaIndirectX 0xC4, []) ∧
    decode [0xA5, 0xCB] = .ok (.ldaZeroPage 0xCB, []) ∧
    decode [0xA9, 0xD2] = .ok (.ldaImmediate 0xD2, []) ∧
    decode [0xAD, 0xD9, 0xCD] = .ok (.ldaAbsolute 0xCDD9, []) ∧
    decode [0xB1, 0xE0] = .ok (.ldaIndirectY 0xE0, []) ∧
    decode [0xB5, 0xE7] = .ok (.ldaZeroPageX 0xE7, []) ∧
    decode [0xB9, 0xEE, 0xF4] = .ok (.ldaAbsoluteY 0xF4EE, []) ∧
    decode [0xBD, 0xF5, 0x01] = .ok (.ldaAbsoluteX 0x01F5, []) := ⟨rfl, rfl, rfl, rfl, rfl, rfl, rfl, rfl⟩

theorem test_decode_ldx :
    decode [0xA2, 0xFC] = .ok (.ldxImmediate 0xFC, []) ∧
    decode [0xA6, 0x03] = .ok (.ldxZeroPage 0x03, []) ∧
    decode [0xAE, 0x0A, 0x28] = .ok (.ldxAbsolute 0x280A, []) ∧
    decode [0xB6, 0x11] = .ok (.ldxZeroPageY 0x11, []) ∧
    decode [0xBE, 0x18, 0x42] = .ok (.ldxAbsoluteY 0x4218, []) := ⟨rfl, rfl, rfl, rfl, rfl⟩

theorem test_decode_tay :
    decode [0xA8] = .ok (.tay, []) := rfl

theorem test_decode_tax :
    decode [0xAA] = .ok (.tax, []) := rfl

theorem test_decode_bcs :
    decode [0xB0, 0x2D] = .ok (.bcs 0x2D, []) := rfl

theorem test_decode_clv :
    decode [0xB8] = .ok (.clv, []) := rfl

theorem test_decode_cld :
    decode [0xD8] = .ok (.cld, []) := rfl

theorem test_decode_sbc :
    decode [0xE1, 0x42] = .ok (.sbcIndirectX 0x42, []) ∧
    decode [0xE5, 0x49] = .ok (.sbcZeroPage 0x49, []) ∧
    decode [0xE9, 0x50] = .ok (.sbcImmediate 0x50, []) ∧
    decode [0xED, 0x57, 0xB7] = .ok (.sbcAbsolute 0xB757, []) ∧
    decode [0xF1, 0x5E] = .ok (.sbcIndirectY 0x5E, []) ∧
    decode [0xF5, 0x65] = .ok (.sbcZeroPageX 0x65, []) ∧
    decode [0xF9, 0x6C, 0xDE] = .ok (.sbcAbsoluteY 0xDE6C, []) ∧
    decode [0xFD, 0x73, 0xEB] = .ok (.sbcAbsoluteX 0xEB73, []) := ⟨rfl, rfl, rfl, rfl, rfl, rfl, rfl, rfl⟩

theorem test_decode_inx :
    decode [0xE8] = .ok (.inx, []) := rfl

theorem test_decode_sed :
    decode [0xF8] = .ok (.sed, []) := rfl

theorem test_decode_ora :
    decode [0x01, 0x88] = .ok (.oraIndirectX 0x88, []) ∧
    decode [0x05, 0x8F] = .ok (.oraZeroPage 0x8F, []) ∧
    decode [0x09, 0x96] = .ok (.oraImmediate 0x96, []) ∧
    decode [0x0D, 0x9D, 0x39] = .ok (.oraAbsolute 0x399D, []) ∧
    decode [0x11, 0xA4] = .ok (.oraIndirectY 0xA4, []) ∧
    decode [0x15, 0xAB] = .ok (.oraZeroPageX 0xAB, []) ∧
    decode [0x19, 0xB2, 0x60] = .ok (.oraAbsoluteY 0x60B2, []) ∧
    decode [0x1D, 0xB9, 0x6D] = .ok (.oraAbsoluteX 0x6DB9, []) := ⟨rfl, rfl, rfl, rfl, rfl, rfl, rfl, rfl⟩

theorem test_decode_bpl :
    decode [0x10, 0xC0] = .ok (.bpl 0xC0, []) := rfl

theorem test_decode_and :
    decode [0x21, 0xC7] = .ok (.andIndirectX 0xC7, []) ∧
    decode [0x25, 0xCE] = .ok (.andZeroPage 0xCE, []) ∧
    decode [0x29, 0xD5] = .ok (.andImmediate 0xD5, []) ∧
    decode [0x2D, 0xDC, 0xAE] = .ok (.andAbsolute 0xAEDC, []) ∧
    decode [0x31, 0xE3] = .ok (.andIndirectY 0xE3, []) ∧
    decode [0x35, 0xEA] = .ok (.andZeroPageX 0xEA, []) ∧
    decode [0x39, 0xF1, 0xD5] = .ok (.andAbsoluteY 0xD5F1, []) ∧
    decode [0x3D, 0xF8, 0xE2] = .ok (.andAbsoluteX 0xE2F8, []) := ⟨rfl, rfl, rfl, rfl, rfl, rfl, rfl, rfl⟩

theorem test_decode_bit :
    decode [0x24, 0xFF] = .ok (.bitZeroPage 0xFF, []) ∧
    decode [0x2C, 0x06, 0xFC] = .ok (.bitAbsolute 0xFC06, []) := ⟨rfl, rfl⟩

theorem test_decode_bmi :
    decode [0x30, 0x0D] = .ok (.bmi 0x0D, []) := rfl

theorem test_decode_eor :
    decode [0x41, 0x14] = .ok (.eorIndirectX 0x14, []) ∧
    decode [0x45, 0x1B] = .ok (.eorZeroPage 0x1B, []) ∧
    decode [0x49, 0x22] = .ok (.eorImmediate 0x22, []) ∧
    decode [0x4D, 0x29, 0x3D] = .ok (.eorAbsolute 0x3D29, []) ∧
    decode [0x51, 0x30] = .ok (.eorIndirectY 0x30, []) ∧
    decode [0x55, 0x37] = .ok (.eorZeroPageX 0x37, []) ∧
    decode [0x59, 0x3E, 0x64] = .ok (.eorAbsoluteY 0x643E, []) ∧
    decode [0x5D, 0x45, 0x71] = .ok (.eorAbsoluteX 0x7145, []) := ⟨rfl, rfl, rfl, rfl, rfl, rfl, rfl, rfl⟩

theorem test_decode_bvc :
    decode [0x50, 0x4C] = .ok (.bvc 0x4C, []) := rfl

theorem test_decode_bvs :
    decode [0x70, 0x53] = .ok (.bvs 0x53, []) := rfl

theorem test_decode_cpy :
    decode [0xC0, 0x5A] = .ok (.cpyImmediate 0x5A, []) ∧
    decode [0xC4, 0x61] = .ok (.cpyZeroPage 0x61, []) ∧
    decode [0xCC, 0x68, 0xB2] = .ok (.cpyAbsolute 0xB268, []) := ⟨rfl, rfl, rfl⟩

theorem test_decode_cmp :
    decode [0xC1, 0x6F] = .ok (.cmpIndirectX 0x6F, []) ∧
    decode [0xC5, 0x76] = .ok (.cmpZeroPage 0x76, []) ∧
    decode [0xC9, 0x7D] = .ok (.cmpImmediate 0x7D, []) ∧
    decode [0xCD, 0x84, 0xE6] = .ok (.cmpAbsolute 0xE684, []) ∧
    decode [0xD1, 0x8B] = .ok (.cmpIndirectY 0x8B, []) ∧
    decode [0xD5, 0x92] = .ok (.cmpZeroPageX 0x92, []) ∧
    decode [0xD9, 0x99, 0x0D] = .ok (.cmpAbsoluteY 0x0D99, []) ∧
    decode [0xDD, 0xA0, 0x1A] = .ok (.cmpAbsoluteX 0x1AA0, []) := ⟨rfl, rfl, rfl, rfl, rfl, rfl, rfl, rfl⟩

theorem test_decode_bne :
    decode [0xD0, 0xA7] = .ok (.bne 0xA7, []) := rfl

theorem test_decode_cpx :
    decode [0xE0, 0xAE] = .ok (.cpxImmediate 0xAE, []) ∧
    decode [0xE4, 0xB5] = .ok (.cpxZeroPage 0xB5, []) ∧
    decode [0xEC, 0xBC, 0x4E] = .ok (.cpxAbsolute 0x4EBC, []) := ⟨rfl, rfl, rfl⟩

theorem test_decode_beq :
    decode [0xF0, 0xC3] = .ok (.beq 0xC3, []) := rfl

/-- One instruction of each group, its word written out bit by bit (R92, R93). -/
theorem test_decode_bit_by_bit :
    decode [0b01101001, 0b01000000] = .ok (.adcImmediate 0x40, []) ∧
    decode [0b00011110, 0b11110000, 0b11111111] = .ok (.aslAbsoluteX 0xFFF0, []) ∧
    decode [0b10110000, 0b11110000] = .ok (.bcs 0xF0, []) ∧
    decode [0b01001100, 0b00000100, 0b10000000] = .ok (.jmpAbsolute 0x8004, []) ∧
    decode [0b10010110, 0b00010000] = .ok (.stxZeroPageY 0x10, []) ∧
    decode [0b00011000] = .ok (.clc, []) ∧
    decode [0b00101100, 0b00110100, 0b00010010] = .ok (.bitAbsolute 0x1234, []) ∧
    decode [0b11100000, 0b00000101] = .ok (.cpxImmediate 0x05, []) ∧
    decode [0b11010000, 0b11111001] = .ok (.bne 0xF9, []) := ⟨rfl, rfl, rfl, rfl, rfl, rfl, rfl, rfl, rfl⟩

/-- The decoder rejects by name: no byte, an absent opcode, an operand that is cut off. -/
theorem test_decode_rejects :
    decode [] = .error .noBytes ∧ decode [0xCA] = .error (.noEntry 0xCA) ∧ decode [0xAD, 0x34] = .error (.truncated 0xAD) :=
  ⟨rfl, rfl, rfl⟩

/-- The encoder writes the words of R92: the low operand byte first. -/
theorem test_encode : encode (.jmpAbsolute 0x8004) = [0x4C, 0x04, 0x80] ∧ encode (.ldaImmediate 0x01) = [0xA9, 0x01] ∧
    encode .brk = [0x00] := by decide

/-- The table numbers an instruction's bits from the first byte on. -/
theorem test_decodeTableWord : decodeTableWord 24 0x80044C = some (.jmpAbsolute 0x8004) ∧
    decodeTableWord 8 0xCA = none := by decide

/-! ## One step -/

/-- A running machine at `pc` with these instruction bytes and memory bytes, every register and flag zero: the start
state of a vector of 95_test_vectors.md. -/
def machine (cfg : Config) (pc : Word) (bytes : List Byte) (cells : List (Word × Byte)) : State :=
  { State.reset with
    cfg := cfg
    pc := pc
    mem := cells.foldl (fun m c => m.write c.1 c.2) (Memory.writeBytes [] pc bytes) }

/-- A step answers a next state that passes a check. -/
def stepGives (s : State) (check : State → Bool) : Bool :=
  match step s with
  | .next t => check t
  | .fault _ | .refused _ => false

/-- AD3. -/
theorem test_adc_carry_in_and_out : stepGives { machine Config.standard 0x8000 [0x69, 0xFF] [] with a := 0xFF, p := { Status.clear with c := true } }
    (fun t => t.a == 0xFF && t.p.c == true && t.p.v == false && t.p.n == true && t.p.z == false && t.pc == 0x8002 && t.phase == .running) = true := by decide

/-- AD6. -/
theorem test_adc_is_binary_with_decimal_set : stepGives { machine Config.standard 0x8000 [0x69, 0x01] [] with a := 0x09, p := { Status.clear with d := true } }
    (fun t => t.a == 0x0A && t.p.c == false && t.p.v == false && t.p.n == false && t.p.z == false && t.p.d == true && t.pc == 0x8002 && t.phase == .running) = true := by decide

/-- E5, the source's own example. -/
theorem test_sbc_borrow : stepGives { machine Config.standard 0x8000 [0xE9, 0x01] [] with a := 0x01 }
    (fun t => t.a == 0xFF && t.p.n == true && t.p.c == false && t.p.v == false && t.p.z == false && t.pc == 0x8002 && t.phase == .running) = true := by decide

/-- SB2. -/
theorem test_sbc_overflow : stepGives { machine Config.standard 0x8000 [0xE9, 0x01] [] with a := 0x80, p := { Status.clear with c := true } }
    (fun t => t.a == 0x7F && t.p.c == true && t.p.v == true && t.p.n == false && t.p.z == false && t.pc == 0x8002 && t.phase == .running) = true := by decide

/-- SH1. -/
theorem test_asl_shifts_out_bit_7 : stepGives { machine Config.standard 0x8000 [0x0A] [] with a := 0x81 }
    (fun t => t.a == 0x02 && t.p.c == true && t.p.n == false && t.p.z == false && t.pc == 0x8001 && t.phase == .running) = true := by decide

/-- SH13. -/
theorem test_asl_memory_wraps_its_address : stepGives { machine Config.standard 0x8000 [0x1E, 0xF0, 0xFF] [(0x0010, 0x40)] with x := 0x20 }
    (fun t => t.mem.read 0x0010 == 0x80 && t.p.c == false && t.p.n == true && t.pc == 0x8003 && t.phase == .running) = true := by decide

/-- SH4. -/
theorem test_lsr_memory : stepGives (machine Config.standard 0x8000 [0x46, 0x10] [(0x0010, 0x02)])
    (fun t => t.mem.read 0x0010 == 0x01 && t.p.c == false && t.p.z == false && t.p.n == false && t.pc == 0x8002 && t.phase == .running) = true := by decide

/-- SH6. -/
theorem test_lsr_clears_bit_7 : stepGives { machine Config.standard 0x8000 [0x4A] [] with a := 0xFF }
    (fun t => t.a == 0x7F && t.p.c == true && t.p.n == false && t.pc == 0x8001 && t.phase == .running) = true := by decide

/-- SH9. -/
theorem test_rol_takes_the_old_carry : stepGives { machine Config.standard 0x8000 [0x2A] [] with a := 0x55, p := { Status.clear with c := true } }
    (fun t => t.a == 0xAB && t.p.c == false && t.p.n == true && t.p.z == false && t.pc == 0x8001 && t.phase == .running) = true := by decide

/-- SH7. -/
theorem test_rol_without_carry : stepGives { machine Config.standard 0x8000 [0x2A] [] with a := 0x80 }
    (fun t => t.a == 0x00 && t.p.c == true && t.p.z == true && t.pc == 0x8001 && t.phase == .running) = true := by decide

/-- SH11. -/
theorem test_ror_takes_the_old_carry : stepGives { machine Config.standard 0x8000 [0x6A] [] with a := 0x01, p := { Status.clear with c := true } }
    (fun t => t.a == 0x80 && t.p.c == true && t.p.n == true && t.pc == 0x8001 && t.phase == .running) = true := by decide

/-- SH12. -/
theorem test_ror_memory : stepGives { machine Config.standard 0x8000 [0x6E, 0x00, 0x02] [(0x0200, 0x02)] with p := { Status.clear with c := true } }
    (fun t => t.mem.read 0x0200 == 0x81 && t.p.c == false && t.p.n == true && t.p.z == false && t.pc == 0x8003 && t.phase == .running) = true := by decide

/-- BR1. -/
theorem test_bcc_taken : stepGives (machine Config.standard 0x8010 [0x90, 0x05] [])
    (fun t => t.pc == 0x8017 && t.phase == .running) = true := by decide

/-- BR6. -/
theorem test_bcc_past_the_top : stepGives (machine Config.standard 0xFFF0 [0x90, 0x7F] [])
    (fun t => t.pc == 0xFFF0 && t.phase == .halted (.branchOverflow 0xFFF0 0x10071)) = true := by decide

/-- E8. -/
theorem test_bcs_backward : stepGives { machine Config.standard 0x8010 [0xB0, 0xF0] [] with p := { Status.clear with c := true } }
    (fun t => t.pc == 0x8002 && t.phase == .running) = true := by decide

/-- BR4. -/
theorem test_bcs_to_itself_falls_through : stepGives { machine Config.standard 0x8000 [0xB0, 0xFE] [] with p := { Status.clear with c := true } }
    (fun t => t.pc == 0x8002 && t.phase == .running) = true := by decide

/-- JP1. -/
theorem test_jmp_absolute : stepGives (machine Config.standard 0x8000 [0x4C, 0x04, 0x80] [])
    (fun t => t.pc == 0x8004 && t.phase == .running) = true := by decide

/-- JP2. -/
theorem test_jmp_to_itself_falls_through : stepGives (machine Config.standard 0x8000 [0x4C, 0x00, 0x80] [])
    (fun t => t.pc == 0x8003 && t.phase == .running) = true := by decide

/-- AM14: no page-wrap bug. -/
theorem test_jmp_indirect_crosses_a_page : stepGives (machine Config.standard 0x8000 [0x6C, 0xFF, 0x02] [(0x02FF, 0x34), (0x0300, 0x12), (0x0200, 0x56)])
    (fun t => t.pc == 0x1234 && t.phase == .running) = true := by decide

/-- AM16. -/
theorem test_jmp_indirect_pointer_at_the_top : stepGives (machine Config.standard 0x8000 [0x6C, 0xFF, 0xFF] [])
    (fun t => t.pc == 0x8000 && t.phase == .halted (.outOfRangeAccess 0xFFFF)) = true := by decide

/-- AM3. -/
theorem test_lda_zero_page_x_wraps : stepGives { machine Config.standard 0x8000 [0xB5, 0x80] [(0x007F, 0x11), (0x017F, 0x22)] with x := 0xFF }
    (fun t => t.a == 0x11 && t.pc == 0x8002 && t.phase == .running) = true := by decide

/-- AM10. -/
theorem test_lda_indirect_x_pointer_at_ff : stepGives { machine Config.standard 0x8000 [0xA1, 0xFE] [(0x00FF, 0x00), (0x0000, 0x12), (0x0100, 0x34), (0x1200, 0xAA), (0x3400, 0xBB)] with x := 0x01 }
    (fun t => t.a == 0xAA && t.pc == 0x8002 && t.phase == .running) = true := by decide

/-- AM11. -/
theorem test_lda_indirect_x_pointer_at_ff_linear : stepGives { machine ({ Config.standard with zpPtrWrap := .linear }) 0x8000 [0xA1, 0xFE] [(0x00FF, 0x00), (0x0000, 0x12), (0x0100, 0x34), (0x1200, 0xAA), (0x3400, 0xBB)] with x := 0x01 }
    (fun t => t.a == 0xBB && t.pc == 0x8002 && t.phase == .running) = true := by decide

/-- AM13. -/
theorem test_lda_indirect_y_wraps : stepGives { machine Config.standard 0x8000 [0xB1, 0x86] [(0x0086, 0xFF), (0x0087, 0xFF), (0x0000, 0x77)] with y := 0x01 }
    (fun t => t.a == 0x77 && t.pc == 0x8002 && t.phase == .running) = true := by decide

/-- AM6. -/
theorem test_lda_absolute_x_wraps : stepGives { machine Config.standard 0x8000 [0xBD, 0xF0, 0xFF] [(0x0010, 0x44)] with x := 0x20 }
    (fun t => t.a == 0x44 && t.pc == 0x8003 && t.phase == .running) = true := by decide

/-- AM8. -/
theorem test_lda_absolute_y : stepGives { machine Config.standard 0x8000 [0xB9, 0x00, 0x02] [(0x0205, 0x46)] with y := 0x05 }
    (fun t => t.a == 0x46 && t.pc == 0x8003 && t.phase == .running) = true := by decide

/-- EN10: the advance wraps. -/
theorem test_lda_ends_at_the_top : stepGives (machine Config.standard 0xFFFD [0xAD, 0x00, 0x02] [(0x0200, 0x09)])
    (fun t => t.a == 0x09 && t.pc == 0x0000 && t.phase == .running) = true := by decide

/-- EN9. -/
theorem test_lda_operand_word_at_the_top : stepGives { machine Config.standard 0xFFFE [0xAD] [] with a := 0x42 }
    (fun t => t.a == 0x42 && t.pc == 0xFFFE && t.phase == .halted (.outOfRangeAccess 0xFFFF)) = true := by decide

/-- LS1. -/
theorem test_lda_zero : stepGives { machine Config.standard 0x8000 [0xA9, 0x00] [] with a := 0x55, p := { Status.clear with n := true } }
    (fun t => t.a == 0x00 && t.p.z == true && t.p.n == false && t.pc == 0x8002 && t.phase == .running) = true := by decide

/-- AM4. -/
theorem test_ldx_indexes_with_y : stepGives { machine Config.standard 0x8000 [0xB6, 0xF0] [(0x0010, 0x33)] with y := 0x20 }
    (fun t => t.x == 0x33 && t.pc == 0x8002 && t.phase == .running) = true := by decide

/-- LS5. -/
theorem test_ldx_absolute_y : stepGives { machine Config.standard 0x8000 [0xBE, 0x00, 0x02] [(0x0203, 0x81)] with y := 0x03 }
    (fun t => t.x == 0x81 && t.p.n == true && t.pc == 0x8003 && t.phase == .running) = true := by decide

/-- LS6. -/
theorem test_ldy_indexes_with_x : stepGives { machine Config.standard 0x8000 [0xBC, 0x00, 0x02] [(0x0203, 0x00)] with x := 0x03, y := 0x01 }
    (fun t => t.y == 0x00 && t.p.z == true && t.pc == 0x8003 && t.phase == .running) = true := by decide

/-- LS4. -/
theorem test_ldy_immediate : stepGives { machine Config.standard 0x8000 [0xA0, 0x00] [] with y := 0x07 }
    (fun t => t.y == 0x00 && t.p.z == true && t.p.n == false && t.pc == 0x8002 && t.phase == .running) = true := by decide

/-- LS7. -/
theorem test_sta_leaves_flags : stepGives { machine Config.standard 0x8000 [0x8D, 0x00, 0x02] [] with a := 0x42, p := { Status.clear with z := true, n := true, c := true } }
    (fun t => t.mem.read 0x0200 == 0x42 && t.p.z == true && t.p.n == true && t.p.c == true && t.pc == 0x8003 && t.phase == .running) = true := by decide

/-- LS8. -/
theorem test_sta_indirect_y : stepGives { machine Config.standard 0x8000 [0x91, 0x20] [(0x0020, 0x00), (0x0021, 0x03)] with a := 0x7F, y := 0x05 }
    (fun t => t.mem.read 0x0305 == 0x7F && t.pc == 0x8002 && t.phase == .running) = true := by decide

/-- AM17. -/
theorem test_stx_indexes_with_y : stepGives { machine Config.standard 0x8000 [0x96, 0x10] [] with x := 0x07, y := 0xF5 }
    (fun t => t.mem.read 0x0005 == 0x07 && t.pc == 0x8002 && t.phase == .running) = true := by decide

/-- LS9. -/
theorem test_sty_absolute : stepGives { machine Config.standard 0x8000 [0x8C, 0x34, 0x12] [] with y := 0x99 }
    (fun t => t.mem.read 0x1234 == 0x99 && t.pc == 0x8003 && t.phase == .running) = true := by decide

/-- LS11. -/
theorem test_tax : stepGives { machine Config.standard 0x8000 [0xAA] [] with a := 0x80 }
    (fun t => t.x == 0x80 && t.p.n == true && t.p.z == false && t.pc == 0x8001 && t.phase == .running) = true := by decide

/-- LS12. -/
theorem test_tay : stepGives { machine Config.standard 0x8000 [0xA8] [] with y := 0x05 }
    (fun t => t.y == 0x00 && t.p.z == true && t.pc == 0x8001 && t.phase == .running) = true := by decide

/-- LS13. -/
theorem test_txa : stepGives { machine Config.standard 0x8000 [0x8A] [] with x := 0xFF }
    (fun t => t.a == 0xFF && t.p.n == true && t.pc == 0x8001 && t.phase == .running) = true := by decide

/-- LS14. -/
theorem test_tya : stepGives { machine Config.standard 0x8000 [0x98] [] with a := 0x10 }
    (fun t => t.a == 0x00 && t.p.z == true && t.p.n == false && t.pc == 0x8001 && t.phase == .running) = true := by decide

/-- FL1. -/
theorem test_clc : stepGives { machine Config.standard 0x8000 [0x18] [] with p := { Status.clear with c := true, z := true } }
    (fun t => t.p.c == false && t.p.z == true && t.pc == 0x8001 && t.phase == .running) = true := by decide

/-- FL8: no inversion. -/
theorem test_sec : stepGives { machine Config.standard 0x8000 [0x38] [] with p := { Status.clear with c := true } }
    (fun t => t.p.c == true && t.pc == 0x8001 && t.phase == .running) = true := by decide

/-- FL3. -/
theorem test_cli : stepGives { machine Config.standard 0x8000 [0x58] [] with p := { Status.clear with i := true } }
    (fun t => t.p.i == false && t.pc == 0x8001 && t.phase == .running) = true := by decide

/-- FL4. -/
theorem test_sei : stepGives (machine Config.standard 0x8000 [0x78] [])
    (fun t => t.p.i == true && t.pc == 0x8001 && t.phase == .running) = true := by decide

/-- FL5. -/
theorem test_cld : stepGives { machine Config.standard 0x8000 [0xD8] [] with p := { Status.clear with d := true } }
    (fun t => t.p.d == false && t.pc == 0x8001 && t.phase == .running) = true := by decide

/-- FL6. -/
theorem test_sed : stepGives (machine Config.standard 0x8000 [0xF8] [])
    (fun t => t.p.d == true && t.pc == 0x8001 && t.phase == .running) = true := by decide

/-- FL7. -/
theorem test_clv : stepGives { machine Config.standard 0x8000 [0xB8] [] with p := { Status.clear with v := true } }
    (fun t => t.p.v == false && t.pc == 0x8001 && t.phase == .running) = true := by decide

/-- E6, the source's own example. -/
theorem test_inx_wraps : stepGives { machine Config.standard 0x8000 [0xE8] [] with x := 0xFF }
    (fun t => t.x == 0x00 && t.p.z == true && t.p.n == false && t.pc == 0x8001 && t.phase == .running) = true := by decide

/-- IX3. -/
theorem test_inx_at_the_top_of_memory : stepGives (machine Config.standard 0xFFFF [0xE8] [])
    (fun t => t.x == 0x01 && t.pc == 0x0000 && t.phase == .running) = true := by decide

/-- BK1. -/
theorem test_brk : stepGives { machine Config.standard 0x8006 [0x00] [] with a := 0x01 }
    (fun t => t.a == 0x01 && t.p.b == false && t.pc == 0x8007 && t.phase == .halted (.brk)) = true := by decide

/-- OX2. -/
theorem test_and_immediate : stepGives { machine allGroups 0x8000 [0x29, 0x81] [] with a := 0xFF }
    (fun t => t.a == 0x81 && t.p.n == true && t.p.z == false && t.pc == 0x8002 && t.phase == .running) = true := by decide

/-- OX3. -/
theorem test_ora_immediate : stepGives { machine allGroups 0x8000 [0x09, 0x01] [] with a := 0x80 }
    (fun t => t.a == 0x81 && t.p.n == true && t.pc == 0x8002 && t.phase == .running) = true := by decide

/-- OX4. -/
theorem test_eor_immediate : stepGives { machine allGroups 0x8000 [0x49, 0xFF] [] with a := 0x0F }
    (fun t => t.a == 0xF0 && t.p.n == true && t.pc == 0x8002 && t.phase == .running) = true := by decide

/-- OX5. -/
theorem test_bit_zero_page : stepGives { machine allGroups 0x8000 [0x24, 0x10] [(0x0010, 0xC0)] with a := 0x01 }
    (fun t => t.p.z == true && t.p.n == true && t.p.v == true && t.a == 0x01 && t.pc == 0x8002 && t.phase == .running) = true := by decide

/-- OX6. -/
theorem test_cmp_is_unsigned : stepGives { machine allGroups 0x8000 [0xC9, 0x01] [] with a := 0x80 }
    (fun t => t.p.c == true && t.p.z == false && t.p.n == false && t.a == 0x80 && t.pc == 0x8002 && t.phase == .running) = true := by decide

/-- OX7. -/
theorem test_cmp_less : stepGives { machine allGroups 0x8000 [0xC9, 0xFF] [] with a := 0x00 }
    (fun t => t.p.c == false && t.p.z == false && t.p.n == false && t.pc == 0x8002 && t.phase == .running) = true := by decide

/-- OX10. -/
theorem test_cpx_immediate : stepGives { machine allGroups 0x8000 [0xE0, 0x03] [] with x := 0x05 }
    (fun t => t.p.c == true && t.p.z == false && t.p.n == false && t.pc == 0x8002 && t.phase == .running) = true := by decide

/-- OX11. -/
theorem test_cpy_immediate : stepGives { machine allGroups 0x8000 [0xC0, 0x02] [] with y := 0x01 }
    (fun t => t.p.c == false && t.p.n == true && t.p.z == false && t.pc == 0x8002 && t.phase == .running) = true := by decide

/-- OX12. -/
theorem test_bpl_taken : stepGives (machine allGroups 0x8000 [0x10, 0x10] [])
    (fun t => t.pc == 0x8012 && t.phase == .running) = true := by decide

/-- OX13. -/
theorem test_bmi_not_taken : stepGives (machine allGroups 0x8000 [0x30, 0x10] [])
    (fun t => t.pc == 0x8002 && t.phase == .running) = true := by decide

/-- OX14. -/
theorem test_bvc_backward : stepGives (machine allGroups 0x8010 [0x50, 0xFC] [])
    (fun t => t.pc == 0x800E && t.phase == .running) = true := by decide

/-- The example of R281. -/
theorem test_bvs_taken : stepGives { machine allGroups 0x8010 [0x70, 0x02] [] with p := { Status.clear with v := true } }
    (fun t => t.pc == 0x8014 && t.phase == .running) = true := by decide

/-- OX15. -/
theorem test_bne_backward : stepGives (machine allGroups 0x8005 [0xD0, 0xF9] [])
    (fun t => t.pc == 0x8000 && t.phase == .running) = true := by decide

/-- OX16. -/
theorem test_beq_displacement_zero : stepGives { machine allGroups 0x8000 [0xF0, 0x00] [] with p := { Status.clear with z := true } }
    (fun t => t.pc == 0x8002 && t.phase == .running) = true := by decide

/-- E9, the source's own example. -/
theorem test_absent_opcode_halts : stepGives { machine Config.standard 0x8000 [0xCA] [] with x := 0x05 }
    (fun t => t.x == 0x05 && t.pc == 0x8000 && t.phase == .halted (.unimplementedOpcode 0xCA 0x8000)) = true := by decide

/-- EN7. -/
theorem test_optional_opcode_halts_by_default : stepGives (machine Config.standard 0x8000 [0x29, 0x0F] [])
    (fun t => t.pc == 0x8000 && t.phase == .halted (.unimplementedOpcode 0x29 0x8000)) = true := by decide

/-- EN8. -/
theorem test_omitted_base_opcode_halts : stepGives (machine ({ Config.standard with baseOmit := [0x69] }) 0x8000 [0x69, 0x01] [])
    (fun t => t.pc == 0x8000 && t.phase == .halted (.unimplementedOpcode 0x69 0x8000)) = true := by decide

/-! ## The host's operations -/

/-- EN1: a step on a freshly constructed machine is refused. -/
theorem test_step_before_reset_is_refused : step (State.constructed Config.standard) = .refused .hostProtocol := rfl

/-- EN2: a step of a halted machine reports the halt and changes nothing. -/
theorem test_halted_stays : step { State.reset with phase := .halted .brk } = .next { State.reset with phase := .halted .brk } :=
  rfl

/-- EN12: reset leaves a fatal halt. -/
theorem test_reset_leaves_a_halt :
    let s := { machine Config.standard 0x8000 [] [(0xFFFD, 0x90)] with
      a := 0x05, phase := .halted (.unimplementedOpcode 0xCA 0x8000) }
    s.restart.phase = .running ∧ s.restart.a = 0x00 ∧ s.restart.pc = 0x9000 := by decide

/-- RL1 and the reset values of R360: reset memory lists nothing. -/
theorem test_reset : State.reset.pc = 0x0000 ∧ State.reset.phase = .running ∧ State.reset.mem = [] ∧
    State.reset.p = Status.clear := by decide

/-- RL2: loading nothing writes the vector. -/
theorem test_load_nothing : (State.constructed Config.standard).load [] =
    .ok { State.constructed Config.standard with mem := [(0xFFFD, 0x80)] } := rfl

/-- M6 and M7: `read16` is linear, and wraps at 0xFFFF under `Wrap`. -/
theorem test_read16 : Memory.read16 .fault [(0x00FF, 0x34), (0x0100, 0x12)] 0x00FF = .ok 0x1234 ∧
    Memory.read16 .wrap [(0x0000, 0x80), (0xFFFF, 0x03)] 0xFFFF = .ok 0x8003 := ⟨rfl, rfl⟩

/-- M3 and M4: a range that ends at 0xFFFF fits, one that crosses does not. -/
theorem test_writeRange : Memory.writeRange [] 0xFFFF [0x01] = .ok [(0xFFFF, 0x01)] ∧
    Memory.writeRange [] 0xFFFF [0x01, 0x02] = .error .rangeOverflow := ⟨rfl, rfl⟩

/-- Writing 0x00, what an unlisted byte reads as, takes the entry away. -/
theorem test_write_of_zero_unlists : Memory.write [(4, 0x01), (5, 0x02)] 4 0x00 = [(5, 0x02)] := by decide

/-- The word placed for the next step runs, with its group put into the table: AND in the default configuration. -/
theorem test_withFetchWord_enables_the_row :
    stepGives ({ State.reset with a := 0xFF }.withFetchWord 16 0x8129) (fun t => t.a == 0x81 && t.pc == 0x0002) = true := by
  decide

/-! ## Witnesses

For every statement with hypotheses, concrete states and operands that meet them. -/

/-- A running machine at 0xFFFF, every group in the table, with this opcode byte there. -/
def atTop (op : Byte) : State := machine allGroups 0xFFFF [op] []

/-- An instruction of every mnemonic: what the statements about a mnemonic's instructions speak of. -/
theorem witness_every_mnemonic_has_an_instruction (m : Mnemonic) : ∃ i : Instr, i.mnemonic = m := by
  cases m
  case adc => exact ⟨.adcIndirectX 0, rfl⟩
  case sbc => exact ⟨.sbcIndirectX 0, rfl⟩
  case asl => exact ⟨.aslZeroPage 0, rfl⟩
  case lsr => exact ⟨.lsrZeroPage 0, rfl⟩
  case rol => exact ⟨.rolZeroPage 0, rfl⟩
  case ror => exact ⟨.rorZeroPage 0, rfl⟩
  case bcc => exact ⟨.bcc 0, rfl⟩
  case bcs => exact ⟨.bcs 0, rfl⟩
  case jmp => exact ⟨.jmpAbsolute 0, rfl⟩
  case lda => exact ⟨.ldaIndirectX 0, rfl⟩
  case ldx => exact ⟨.ldxImmediate 0, rfl⟩
  case ldy => exact ⟨.ldyImmediate 0, rfl⟩
  case sta => exact ⟨.staIndirectX 0, rfl⟩
  case stx => exact ⟨.stxZeroPage 0, rfl⟩
  case sty => exact ⟨.styZeroPage 0, rfl⟩
  case tax => exact ⟨.tax, rfl⟩
  case tay => exact ⟨.tay, rfl⟩
  case txa => exact ⟨.txa, rfl⟩
  case tya => exact ⟨.tya, rfl⟩
  case clc => exact ⟨.clc, rfl⟩
  case sec => exact ⟨.sec, rfl⟩
  case cli => exact ⟨.cli, rfl⟩
  case sei => exact ⟨.sei, rfl⟩
  case cld => exact ⟨.cld, rfl⟩
  case sed => exact ⟨.sed, rfl⟩
  case clv => exact ⟨.clv, rfl⟩
  case inx => exact ⟨.inx, rfl⟩
  case brk => exact ⟨.brk, rfl⟩
  case and => exact ⟨.andIndirectX 0, rfl⟩
  case ora => exact ⟨.oraIndirectX 0, rfl⟩
  case eor => exact ⟨.eorIndirectX 0, rfl⟩
  case bit => exact ⟨.bitZeroPage 0, rfl⟩
  case cmp => exact ⟨.cmpIndirectX 0, rfl⟩
  case cpx => exact ⟨.cpxImmediate 0, rfl⟩
  case cpy => exact ⟨.cpyImmediate 0, rfl⟩
  case bpl => exact ⟨.bpl 0, rfl⟩
  case bmi => exact ⟨.bmi 0, rfl⟩
  case bvc => exact ⟨.bvc 0, rfl⟩
  case bvs => exact ⟨.bvs 0, rfl⟩
  case bne => exact ⟨.bne 0, rfl⟩
  case beq => exact ⟨.beq 0, rfl⟩

/-- A fetch of every mnemonic: what the statements about its raises speak of. -/
theorem witness_every_mnemonic_is_fetched (m : Mnemonic) : ∃ s, Fetches s m := by
  cases m
  case adc => exact ⟨machine allGroups 0x8000 [0x61] [], rfl, _, rfl, rfl⟩
  case sbc => exact ⟨machine allGroups 0x8000 [0xE1] [], rfl, _, rfl, rfl⟩
  case asl => exact ⟨machine allGroups 0x8000 [0x06] [], rfl, _, rfl, rfl⟩
  case lsr => exact ⟨machine allGroups 0x8000 [0x46] [], rfl, _, rfl, rfl⟩
  case rol => exact ⟨machine allGroups 0x8000 [0x26] [], rfl, _, rfl, rfl⟩
  case ror => exact ⟨machine allGroups 0x8000 [0x66] [], rfl, _, rfl, rfl⟩
  case bcc => exact ⟨machine allGroups 0x8000 [0x90] [], rfl, _, rfl, rfl⟩
  case bcs => exact ⟨machine allGroups 0x8000 [0xB0] [], rfl, _, rfl, rfl⟩
  case jmp => exact ⟨machine allGroups 0x8000 [0x4C] [], rfl, _, rfl, rfl⟩
  case lda => exact ⟨machine allGroups 0x8000 [0xA1] [], rfl, _, rfl, rfl⟩
  case ldx => exact ⟨machine allGroups 0x8000 [0xA2] [], rfl, _, rfl, rfl⟩
  case ldy => exact ⟨machine allGroups 0x8000 [0xA0] [], rfl, _, rfl, rfl⟩
  case sta => exact ⟨machine allGroups 0x8000 [0x81] [], rfl, _, rfl, rfl⟩
  case stx => exact ⟨machine allGroups 0x8000 [0x86] [], rfl, _, rfl, rfl⟩
  case sty => exact ⟨machine allGroups 0x8000 [0x84] [], rfl, _, rfl, rfl⟩
  case tax => exact ⟨machine allGroups 0x8000 [0xAA] [], rfl, _, rfl, rfl⟩
  case tay => exact ⟨machine allGroups 0x8000 [0xA8] [], rfl, _, rfl, rfl⟩
  case txa => exact ⟨machine allGroups 0x8000 [0x8A] [], rfl, _, rfl, rfl⟩
  case tya => exact ⟨machine allGroups 0x8000 [0x98] [], rfl, _, rfl, rfl⟩
  case clc => exact ⟨machine allGroups 0x8000 [0x18] [], rfl, _, rfl, rfl⟩
  case sec => exact ⟨machine allGroups 0x8000 [0x38] [], rfl, _, rfl, rfl⟩
  case cli => exact ⟨machine allGroups 0x8000 [0x58] [], rfl, _, rfl, rfl⟩
  case sei => exact ⟨machine allGroups 0x8000 [0x78] [], rfl, _, rfl, rfl⟩
  case cld => exact ⟨machine allGroups 0x8000 [0xD8] [], rfl, _, rfl, rfl⟩
  case sed => exact ⟨machine allGroups 0x8000 [0xF8] [], rfl, _, rfl, rfl⟩
  case clv => exact ⟨machine allGroups 0x8000 [0xB8] [], rfl, _, rfl, rfl⟩
  case inx => exact ⟨machine allGroups 0x8000 [0xE8] [], rfl, _, rfl, rfl⟩
  case brk => exact ⟨machine allGroups 0x8000 [0x00] [], rfl, _, rfl, rfl⟩
  case and => exact ⟨machine allGroups 0x8000 [0x21] [], rfl, _, rfl, rfl⟩
  case ora => exact ⟨machine allGroups 0x8000 [0x01] [], rfl, _, rfl, rfl⟩
  case eor => exact ⟨machine allGroups 0x8000 [0x41] [], rfl, _, rfl, rfl⟩
  case bit => exact ⟨machine allGroups 0x8000 [0x24] [], rfl, _, rfl, rfl⟩
  case cmp => exact ⟨machine allGroups 0x8000 [0xC1] [], rfl, _, rfl, rfl⟩
  case cpx => exact ⟨machine allGroups 0x8000 [0xE0] [], rfl, _, rfl, rfl⟩
  case cpy => exact ⟨machine allGroups 0x8000 [0xC0] [], rfl, _, rfl, rfl⟩
  case bpl => exact ⟨machine allGroups 0x8000 [0x10] [], rfl, _, rfl, rfl⟩
  case bmi => exact ⟨machine allGroups 0x8000 [0x30] [], rfl, _, rfl, rfl⟩
  case bvc => exact ⟨machine allGroups 0x8000 [0x50] [], rfl, _, rfl, rfl⟩
  case bvs => exact ⟨machine allGroups 0x8000 [0x70] [], rfl, _, rfl, rfl⟩
  case bne => exact ⟨machine allGroups 0x8000 [0xD0] [], rfl, _, rfl, rfl⟩
  case beq => exact ⟨machine allGroups 0x8000 [0xF0] [], rfl, _, rfl, rfl⟩

/-- The data operand of an immediate and of a memory form, and an instruction that ends at 0xFFFF, the last place where
`NextPc` gives a number. -/
theorem witness_DataOperand_and_NextPc :
    DataOperand (.ldaImmediate 0x05) State.reset 0x05 ∧
    DataOperand (.ldaZeroPage 0x10) (machine Config.standard 0x8000 [] [(0x0010, 0x09)]) 0x09 ∧
    (machine Config.standard 0xFFFD [] []).pc.toNat + (Instr.ldaImmediate 0x05).length ≤ 0xFFFF :=
  ⟨⟨fun imm h => by injection h, fun h => absurd rfl h⟩,
    ⟨fun imm h => by simp [Instr.operand] at h, fun _ => ⟨0x0010, rfl, rfl⟩⟩, by decide⟩

/-- A raise of Resolve: an operand byte above 0xFFFF (R131). -/
theorem witness_raise_of_resolve (m : Mnemonic) (hm : m ∈ [Mnemonic.adc, .sbc, .asl, .lsr, .rol, .ror, .lda, .ldx, .ldy,
    .sta, .stx, .sty, .and, .ora, .eor, .bit, .cmp, .cpx, .cpy, .bcc, .bcs, .bpl, .bmi, .bvc, .bvs, .bne, .beq, .jmp]) :
    ∃ s t, Fetches s m ∧ step s = .next t ∧ t.phase = .halted (.outOfRangeAccess 0xFFFF) := by
  fin_cases hm
  · exact ⟨atTop 0x61, _, ⟨rfl, _, rfl, rfl⟩, rfl, rfl⟩
  · exact ⟨atTop 0xE1, _, ⟨rfl, _, rfl, rfl⟩, rfl, rfl⟩
  · exact ⟨atTop 0x06, _, ⟨rfl, _, rfl, rfl⟩, rfl, rfl⟩
  · exact ⟨atTop 0x46, _, ⟨rfl, _, rfl, rfl⟩, rfl, rfl⟩
  · exact ⟨atTop 0x26, _, ⟨rfl, _, rfl, rfl⟩, rfl, rfl⟩
  · exact ⟨atTop 0x66, _, ⟨rfl, _, rfl, rfl⟩, rfl, rfl⟩
  · exact ⟨atTop 0xA1, _, ⟨rfl, _, rfl, rfl⟩, rfl, rfl⟩
  · exact ⟨atTop 0xA2, _, ⟨rfl, _, rfl, rfl⟩, rfl, rfl⟩
  · exact ⟨atTop 0xA0, _, ⟨rfl, _, rfl, rfl⟩, rfl, rfl⟩
  · exact ⟨atTop 0x81, _, ⟨rfl, _, rfl, rfl⟩, rfl, rfl⟩
  · exact ⟨atTop 0x86, _, ⟨rfl, _, rfl, rfl⟩, rfl, rfl⟩
  · exact ⟨atTop 0x84, _, ⟨rfl, _, rfl, rfl⟩, rfl, rfl⟩
  · exact ⟨atTop 0x21, _, ⟨rfl, _, rfl, rfl⟩, rfl, rfl⟩
  · exact ⟨atTop 0x01, _, ⟨rfl, _, rfl, rfl⟩, rfl, rfl⟩
  · exact ⟨atTop 0x41, _, ⟨rfl, _, rfl, rfl⟩, rfl, rfl⟩
  · exact ⟨atTop 0x24, _, ⟨rfl, _, rfl, rfl⟩, rfl, rfl⟩
  · exact ⟨atTop 0xC1, _, ⟨rfl, _, rfl, rfl⟩, rfl, rfl⟩
  · exact ⟨atTop 0xE0, _, ⟨rfl, _, rfl, rfl⟩, rfl, rfl⟩
  · exact ⟨atTop 0xC0, _, ⟨rfl, _, rfl, rfl⟩, rfl, rfl⟩
  · exact ⟨atTop 0x90, _, ⟨rfl, _, rfl, rfl⟩, rfl, rfl⟩
  · exact ⟨atTop 0xB0, _, ⟨rfl, _, rfl, rfl⟩, rfl, rfl⟩
  · exact ⟨atTop 0x10, _, ⟨rfl, _, rfl, rfl⟩, rfl, rfl⟩
  · exact ⟨atTop 0x30, _, ⟨rfl, _, rfl, rfl⟩, rfl, rfl⟩
  · exact ⟨atTop 0x50, _, ⟨rfl, _, rfl, rfl⟩, rfl, rfl⟩
  · exact ⟨atTop 0x70, _, ⟨rfl, _, rfl, rfl⟩, rfl, rfl⟩
  · exact ⟨atTop 0xD0, _, ⟨rfl, _, rfl, rfl⟩, rfl, rfl⟩
  · exact ⟨atTop 0xF0, _, ⟨rfl, _, rfl, rfl⟩, rfl, rfl⟩
  · exact ⟨atTop 0x4C, _, ⟨rfl, _, rfl, rfl⟩, rfl, rfl⟩

/-- A raise of a taken branch past the end, and past the start (R203). -/
theorem witness_raise_of_branch :
    step (machine Config.standard 0xFFF0 [0x90, 0x7F] []) =
      .next ((machine Config.standard 0xFFF0 [0x90, 0x7F] []).raise (.branchOverflow 0xFFF0 0x10071)) ∧
    step ({ machine Config.standard 0x0002 [0xB0, 0x80] [] with p := { Status.clear with c := true } }) =
      .next ({ machine Config.standard 0x0002 [0xB0, 0x80] [] with p := { Status.clear with c := true } }.raise
        (.branchOverflow 0x0002 (-124))) := ⟨rfl, rfl⟩

/-- Every case of a branch (`BranchEffect`): not taken, its own address, the lowest and the highest target inside, the
nearest targets outside on both sides, each with both overflow policies. -/
theorem witness_BranchEffect :
    target 0xFE (machine Config.standard 0x8000 [] []) = 0x8000 ∧
    target 0xFE (machine Config.standard 0x0000 [] []) = 0 ∧
    target 0xFD (machine Config.standard 0x0000 [] []) = -1 ∧
    target 0x00 (machine Config.standard 0xFFFD [] []) = 0xFFFF ∧
    target 0x01 (machine Config.standard 0xFFFD [] []) = 0x10000 ∧
    target 0x00 (machine { Config.standard with branchBase := .opcode } 0x8000 [] []) = 0x8000 ∧
    Config.standard.branchOverflow = .fatal ∧
    (machine { Config.standard with branchOverflow := .wrap } 0xFFF0 [0x90, 0x7F] []).cfg.branchOverflow = .wrap := by
  decide

/-- BR8: past the end under `Wrap`. -/
theorem witness_branch_wraps :
    stepGives (machine { Config.standard with branchOverflow := .wrap } 0xFFF0 [0x90, 0x7F] []) (fun t => t.pc == 0x0071) =
      true := by decide

/-- The hypotheses of `TableOfEachConfiguration`'s second clause, and a byte on each side of the first. -/
theorem witness_TableOfEachConfiguration :
    Config.standard.entry 0x69 = some ⟨0x69, .adc, .immediate, 2, .base⟩ ∧ (Instr.adcImmediate 0x01).opcode = 0x69 ∧
    inTable allGroups (.beq 0x00) ∧ ¬ inTable Config.standard (.beq 0x00) ∧
    ¬ inTable { Config.standard with baseOmit := [0x69] } (.adcImmediate 0x01) :=
  ⟨rfl, rfl, rfl, nofun, fun h => h (List.mem_singleton.mpr rfl)⟩

/-- The hypotheses of `StepRunsTheFetchedInstruction`: in the middle, ending at 0xFFFF, and crossing under `Wrap`. -/
theorem witness_StepRunsTheFetchedInstruction :
    decode (bytesAtPc (machine Config.standard 0x8000 [0xA9, 0x01] [])) = .ok (.ldaImmediate 0x01, [0x00]) ∧
    (Instr.ldaImmediate 0x01).wf Config.standard = true ∧
    decode (bytesAtPc (machine Config.standard 0xFFFD [0xAD, 0x00, 0x02] [])) = .ok (.ldaAbsolute 0x0200, []) ∧
    (0xFFFD : Word).toNat + (Instr.ldaAbsolute 0x0200).length ≤ 0x10000 ∧
    decode (bytesAtPc (machine { Config.standard with topPolicy := .wrap } 0xFFFE [0x4C, 0x34] [(0x0000, 0x12)])) =
      .ok (.jmpAbsolute 0x1234, []) := ⟨rfl, rfl, rfl, by decide, rfl⟩

/-- The hypotheses of `AbsentOpcodeHalts`, at the top of memory: the absent byte 0x02 at 0xFFFF. -/
theorem witness_AbsentOpcodeHalts :
    (atTop 0x02).phase = .running ∧ ∀ i : Instr, i.opcode = (atTop 0x02).mem.read (atTop 0x02).pc → ¬ inTable (atTop 0x02).cfg i := by
  refine ⟨rfl, fun i hi => ?_⟩
  have h : (atTop 0x02).mem.read (atTop 0x02).pc = 0x02 := by decide
  rw [h] at hi
  cases i <;> simp [Instr.opcode] at hi

/-- The hypotheses of `DecrementAndYIncrementHalt` and `StackInstructionsAndNopHalt`. -/
theorem witness_absent_official_opcodes :
    (machine allGroups 0x8000 [0xCA] []).phase = .running ∧
    (machine allGroups 0x8000 [0xCA] []).mem.read 0x8000 ∈ opcodesOfR98 ∧
    (machine allGroups 0x8000 [0xEA] []).mem.read 0x8000 ∈ opcodesOfR99 := by decide

/-- The cases of `OutOfRangeAccessExactlyWhen`: length 2 at 0xFFFF, length 3 at 0xFFFE, a pointer at 0xFFFF; and just
inside, length 3 at 0xFFFD, which raises nothing. -/
theorem witness_OutOfRangeAccessExactlyWhen :
    stepGives (atTop 0xA9) (fun t => t.phase == .halted (.outOfRangeAccess 0xFFFF)) = true ∧
    stepGives (machine allGroups 0xFFFE [0xAD] []) (fun t => t.phase == .halted (.outOfRangeAccess 0xFFFF)) = true ∧
    stepGives (machine allGroups 0x8000 [0x6C, 0xFF, 0xFF] []) (fun t => t.phase == .halted (.outOfRangeAccess 0xFFFF)) =
      true ∧
    stepGives (machine allGroups 0xFFFD [0xAD] []) (fun t => t.phase == .running) = true := by decide

/-- The hypotheses of `HaltedIsTerminalAndNotStartedRefuses` and `RunningStepAnswersOneOfThree`. -/
theorem witness_phases :
    { State.reset with phase := .halted .brk }.phase = .halted .brk ∧
    (State.constructed Config.standard).phase = .notStarted ∧ State.reset.phase = .running := ⟨rfl, rfl, rfl⟩

/-- The three cases of `AdvanceWrapsModulo`: no transfer, a branch to itself, a jump to itself. -/
theorem witness_AdvanceWrapsModulo :
    writesPc (Instr.mnemonic .inx) Status.clear = false ∧ writesPc (Instr.bcs 0x05).mnemonic Status.clear = false ∧
    target 0xFE (machine Config.standard 0xFFFE [] []) = 0xFFFE ∧
    effectiveAddress (Instr.jmpAbsolute 0x8000).operand (machine Config.standard 0x8000 [] []) = .ok 0x8000 :=
  ⟨rfl, rfl, by decide, rfl⟩

/-- The hypotheses of `AdderLaws`, for both instructions. -/
theorem witness_AdderLaws :
    (∃ t, DataOperand (.adcImmediate 0x40) State.reset 0x40 ∧ exec (.adcImmediate 0x40) State.reset = .next t) ∧
    ∃ t, DataOperand (.sbcImmediate 0x01) State.reset 0x01 ∧ exec (.sbcImmediate 0x01) State.reset = .next t :=
  ⟨⟨_, ⟨fun imm h => by injection h, fun h => absurd rfl h⟩, rfl⟩,
    ⟨_, ⟨fun imm h => by injection h, fun h => absurd rfl h⟩, rfl⟩⟩

/-- The two cases of a shift, on A and on memory. -/
theorem witness_Shifts :
    Instr.mode .aslAccumulator = .accumulator ∧ (Instr.aslZeroPage 0x10).mode ≠ .accumulator ∧
    effectiveAddress (Instr.aslZeroPage 0x10).operand State.reset = .ok 0x0010 := ⟨rfl, nofun, rfl⟩

/-- The cases of JMP: to another address and to its own; a raise of each form and, just inside, none; an indirect pointer
at 0xFFFF under each policy, and at the address below. -/
theorem witness_jumps :
    (0x8004 : Word) ≠ (machine Config.standard 0x8000 [] []).pc ∧ (0x8000 : Word) = (machine Config.standard 0x8000 [] []).pc ∧
    stepGives (machine Config.standard 0xFFFE [0x4C] []) (fun t => t.phase == .halted (.outOfRangeAccess 0xFFFF)) = true ∧
    stepGives (machine Config.standard 0xFFFD [0x4C, 0x34, 0x12] []) (fun t => t.phase == .running) = true ∧
    stepGives (machine Config.standard 0x8000 [0x6C, 0xFF, 0xFF] [])
      (fun t => t.phase == .halted (.outOfRangeAccess 0xFFFF)) = true ∧
    (0xFFFE : Word) ≠ 0xFFFF ∧ Config.standard.topPolicy = .fault ∧
    ({ Config.standard with topPolicy := .wrap } : Config).topPolicy = .wrap := by decide

/-- The mode column holds the two JMP rows in the default configuration. -/
theorem witness_jumps_in_table : inTable Config.standard (.jmpAbsolute 0) ∧ inTable Config.standard (.jmpIndirect 0) :=
  ⟨nofun, nofun⟩

/-- The hypotheses of `FlagsReflectTheWrittenValue`: a value written to A, to X, to Y and to memory, and an instruction that
leaves Z and N. -/
theorem witness_FlagsReflectTheWrittenValue :
    (∃ t, exec (.ldaImmediate 0x80) State.reset = .next t ∧ WrittenValue (.ldaImmediate 0x80) State.reset t 0x80) ∧
    (∃ t, exec .inx State.reset = .next t ∧ WrittenValue .inx State.reset t 0x01) ∧
    (∃ t, exec .tay State.reset = .next t ∧ WrittenValue .tay State.reset t 0x00) ∧
    (∃ t, exec (.aslZeroPage 0x10) State.reset = .next t ∧ WrittenValue (.aslZeroPage 0x10) State.reset t 0x00) ∧
    (Instr.staZeroPage 0x10).mnemonic ∈ leavesNZ :=
  ⟨⟨_, rfl, .inl ⟨.inl (by decide), rfl⟩⟩, ⟨_, rfl, .inr (.inl ⟨by simp [writesX, Instr.mnemonic], rfl⟩)⟩,
    ⟨_, rfl, .inr (.inr (.inl ⟨by simp [writesY, Instr.mnemonic], rfl⟩))⟩,
    ⟨_, rfl, .inr (.inr (.inr ⟨by decide, nofun, 0x0010, rfl, rfl⟩))⟩, by decide⟩

/-- The hypotheses of `OnlyTheirWritersWriteRegistersAndFlags`: a store meets all of them at once. -/
theorem witness_OnlyTheirWritersWriteRegistersAndFlags :
    (∃ t, exec (.staZeroPage 0x10) State.reset = .next t) ∧ ¬ writesA (.staZeroPage 0x10) ∧ ¬ writesX (.staZeroPage 0x10) ∧
    ¬ writesY (.staZeroPage 0x10) ∧ ¬ writesC (.staZeroPage 0x10) ∧ ¬ writesNZ (.staZeroPage 0x10) ∧
    ¬ writesV (.staZeroPage 0x10) := by
  refine ⟨⟨_, rfl⟩, ?_, ?_, ?_, ?_, ?_, ?_⟩ <;>
    simp [writesA, writesX, writesY, writesC, writesNZ, writesV, shifts, Instr.mnemonic]

/-- The hypotheses of `MemoryChangesOnlyAtTheEffectiveAddress`: a form that stores nothing, a store, a shift on memory. -/
theorem witness_MemoryChangesOnlyAtTheEffectiveAddress :
    ¬ storesToMemory (.ldaZeroPage 0x10) ∧ ¬ storesToMemory .aslAccumulator ∧ storesToMemory (.staZeroPage 0x10) ∧
    storesToMemory (.aslZeroPage 0x10) := by
  refine ⟨?_, ?_, ?_, ?_⟩ <;> simp [storesToMemory, shifts, Instr.mnemonic, Instr.mode, Instr.operand, Operand.mode]

/-- The hypotheses of `OnlyTheirReadersReadRegisters`: for each register an instruction that writes it without reading it
and one that does neither. -/
theorem witness_OnlyTheirReadersReadRegisters :
    (¬ readsA (.ldaImmediate 0x01) ∧ writesA (.ldaImmediate 0x01)) ∧ (¬ readsA .inx ∧ ¬ writesA .inx) ∧
    (¬ readsX (.ldxImmediate 0x01) ∧ writesX (.ldxImmediate 0x01)) ∧ (¬ readsX .tay ∧ ¬ writesX .tay) ∧
    (¬ readsY .tay ∧ writesY .tay) ∧ (¬ readsY .inx ∧ ¬ writesY .inx) := by
  refine ⟨⟨?_, ?_⟩, ⟨?_, ?_⟩, ⟨?_, ?_⟩, ⟨?_, ?_⟩, ⟨?_, ?_⟩, ⟨?_, ?_⟩⟩ <;>
    simp [readsA, readsX, readsY, writesA, writesX, writesY, shifts, Instr.mnemonic, Instr.mode, Instr.operand,
      Operand.mode]

/-- The hypotheses of `OnlyTheirReadersReadFlags`: an instruction that writes C, Z, N and V without reading V, and one that
touches no flag. -/
theorem witness_OnlyTheirReadersReadFlags :
    (¬ readsC .clc ∧ writesC .clc) ∧ (¬ readsC .brk ∧ ¬ writesC .brk) ∧
    ((Instr.ldaImmediate 0x01).mnemonic ∉ [Mnemonic.beq, .bne, .bmi, .bpl] ∧ writesNZ (.ldaImmediate 0x01)) ∧
    (Instr.mnemonic .clv ∉ [Mnemonic.bvc, .bvs] ∧ writesV .clv) ∧ ¬ writesNZ .brk ∧ ¬ writesV .brk := by
  refine ⟨⟨?_, ?_⟩, ⟨?_, ?_⟩, ⟨?_, ?_⟩, ⟨?_, ?_⟩, ?_, ?_⟩ <;>
    simp [readsC, writesC, writesNZ, writesV, shifts, Instr.mnemonic]

/-- The hypotheses of `ResolverAgreesWithDecodedOperand`: an immediate, a displacement, an address. -/
theorem witness_ResolverAgreesWithDecodedOperand :
    fetch (machine Config.standard 0x8000 [0xA9, 0x01] []) = .ok (.ldaImmediate 0x01) ∧
    fetch (machine Config.standard 0x8000 [0xB0, 0xF0] []) = .ok (.bcs 0xF0) ∧
    fetch (machine Config.standard 0xFFFD [0xAD, 0x00, 0x02] []) = .ok (.ldaAbsolute 0x0200) := ⟨rfl, rfl, rfl⟩

/-- The hypothesis of `AddressingModesInNumbers` at its boundary, and the pointer that its clause on Indirect leaves
out. -/
theorem witness_AddressingModesInNumbers :
    (machine Config.standard 0xFFFD [] []).pc.toNat + 2 ≤ 0xFFFF ∧ wordOf 0xFE 0xFF ≠ 0xFFFF ∧ wordOf 0xFF 0xFF = 0xFFFF ∧
    zeroPagePointer (machine Config.standard 0 [] [(0x00FF, 0x00), (0x0000, 0x12), (0x0100, 0x34)]) 0xFF = 0x1200 ∧
    zeroPagePointer (machine { Config.standard with zpPtrWrap := .linear } 0 []
      [(0x00FF, 0x00), (0x0000, 0x12), (0x0100, 0x34)]) 0xFF = 0x3400 := by decide

/-- The cases of `TopOfMemoryPolicies` where they meet: the last operand address inside and the first above. -/
theorem witness_TopOfMemoryPolicies :
    (0xFFFE : Word) ≠ 0xFFFF ∧ (machine Config.standard 0xFFFD [] []).pc.toNat + 2 ≤ 0xFFFF ∧
    0xFFFF < (machine Config.standard 0xFFFE [] []).pc.toNat + 2 ∧ (machine Config.standard 0xFFFE [] []).pc.toNat + 1 ≤ 0xFFFF ∧
    0xFFFF < (machine Config.standard 0xFFFF [] []).pc.toNat + 1 ∧ Config.standard.topPolicy = .fault := by decide

/-- The hypotheses of `InvalidAddressingModeUseIsUnreachable`'s second clause: only a state that already holds the
record. -/
theorem witness_InvalidAddressingModeUse :
    step { State.reset with phase := .halted (.invalidAddressingModeUse 0x0A .accumulator) } =
      .next { State.reset with phase := .halted (.invalidAddressingModeUse 0x0A .accumulator) } := rfl

/-- The cases of `MemWriteChangesOneByte`: the byte itself and its neighbours, at the top. -/
theorem witness_MemWriteChangesOneByte :
    (Memory.write [] 0xFFFF 0x5A).read 0xFFFF = 0x5A ∧ (Memory.write [] 0xFFFF 0x5A).read 0xFFFE = 0x00 ∧
    (Memory.write [] 0xFFFF 0x5A).read 0x0000 = 0x00 := by decide

/-- E1, the cases of `Write16ThenRead16` at the top. -/
theorem witness_Write16ThenRead16 :
    Memory.write16 .fault [] 0xFFFE 0x1234 = .ok [(0xFFFE, 0x34), (0xFFFF, 0x12)] ∧
    Memory.write16 .wrap [] 0xFFFF 0xBEEF = .ok [(0x0000, 0xBE), (0xFFFF, 0xEF)] ∧
    Memory.write16 .fault [] 0xFFFF 0xBEEF = .error (.outOfRangeAccess 0xFFFF) := ⟨rfl, rfl, rfl⟩

/-- The two sides of `WriteRangeAllOrNothing`, where they meet. -/
theorem witness_WriteRangeAllOrNothing :
    (0xFFFE : Word).toNat + [(0x01 : Byte), 0x02].length ≤ 0x10000 ∧
    0x10000 < (0xFFFF : Word).toNat + [(0x01 : Byte), 0x02].length := by decide

/-- The hypotheses of `CanonicalMemoriesAreExtensional`. -/
theorem witness_CanonicalMemoriesAreExtensional :
    Memory.wf [(4, 0x01), (0xFFFF, 0x02)] = true ∧ ∀ a : Word, Memory.read [(4, 0x01)] a = Memory.read [(4, 0x01)] a :=
  ⟨by decide, fun _ => rfl⟩

/-- The two sides of `LoadWritesProgramThenVector` and of `InterpretLoadsResetsAndRuns`, where they meet, and a load for `LoadThenResetStartsAt8000`. -/
theorem witness_load :
    (List.replicate 0x8000 (0xEA : Byte)).length ≤ 0x8000 ∧ 0x8000 < (List.replicate 0x8001 (0xEA : Byte)).length ∧
    ∃ t, (State.constructed Config.standard).load [0xA9, 0x01, 0x00] = .ok t := by
  refine ⟨?_, ?_, _, rfl⟩
  · rw [List.length_replicate]
  · rw [List.length_replicate]; omega

/-- INX, then BRK: the second step is the first that halts. -/
def inxBrk : State := machine Config.standard 0x8000 [0xE8, 0x00] []

/-- The cases of `RunStopsAtTheFirstHalt`, where they meet: no fuel, one step short of the halt, and the halt at the last of
the fuel. -/
theorem witness_RunStopsAtTheFirstHalt :
    State.run 0 inxBrk = .outOfFuel inxBrk ∧
    State.run 1 inxBrk = .outOfFuel { inxBrk with x := 0x01, pc := 0x8001 } ∧
    State.run 2 inxBrk = .halted .brk { inxBrk with x := 0x01, pc := 0x8002, phase := .halted .brk } ∧
    HaltsFirst 2 inxBrk .brk { inxBrk with x := 0x01, pc := 0x8002, phase := .halted .brk } := by
  refine ⟨rfl, rfl, rfl, 1, by decide, rfl, rfl, fun j h h' => ?_⟩
  obtain rfl : j = 1 := by omega
  exact ⟨{ inxBrk with x := 0x01, pc := 0x8001 }, rfl, nofun⟩

/-- The second clause of `InterpretLoadsResetsAndRuns`, with fuel one short of the halt and with enough; the lengths at
which the clauses meet stand in `witness_load`. -/
theorem witness_InterpretLoadsResetsAndRuns :
    (∃ u, (State.constructed Config.standard).interpret 1 [0xE8, 0x00] = .ok (.outOfFuel u)) ∧
    ∃ u, (State.constructed Config.standard).interpret 2 [0xE8, 0x00] = .ok (.halted .brk u) := ⟨⟨_, rfl⟩, _, rfl⟩

/-- The hypotheses of `InvariantKeptByEveryStep`: a running machine with something in memory, and a state that a fatal halt
left. -/
theorem witness_InvariantKeptByEveryStep :
    ((machine Config.standard 0x8000 [0x85, 0x10] []).Inv ∧
      ∃ t, step (machine Config.standard 0x8000 [0x85, 0x10] []) = .next t) ∧
    { machine Config.standard 0x8000 [0x6C, 0xFF, 0xFF] [] with phase := .halted (.outOfRangeAccess 0xFFFF) }.Inv :=
  ⟨⟨⟨rfl, rfl, trivial⟩, _, rfl⟩, rfl, rfl, rfl, rfl⟩

/-- The hypotheses of `NegativeAndZeroNeverTogether`, with N set, with Z set, with neither. -/
theorem witness_NegativeAndZeroNeverTogether :
    State.reset.cfg.extLogic = false ∧ ¬ (State.reset.p.n = true ∧ State.reset.p.z = true) ∧
    (∃ t, step State.reset = .next t) ∧
    ({ Status.clear with n := true }).z = false ∧ ({ Status.clear with z := true }).n = false :=
  ⟨rfl, by decide, ⟨_, rfl⟩, rfl, rfl⟩

/-- The hypothesis of `PlacedInstructionRuns` at its boundary. -/
theorem witness_PlacedInstructionRuns : (machine Config.standard 0xFFFD [] []).pc.toNat + 3 ≤ 0x10000 := by decide

end Sys2Proof.Tests
end

/-! The table of a configuration (R7, R42, R97, R100, R270): which opcode bytes have an entry, and whose it is. -/

namespace Sys2Proof.Proofs

open Sys2Proof Sys2Proof.Claims

/-! ## The optional groups, as lists of mnemonics and as the group of a row -/

theorem mnemonic_mem_logic_iff (m : Mnemonic) : m ∈ [.and, .ora, .eor, .bit] ↔ m.group = .logic := by
  cases m <;> decide

theorem mnemonic_mem_compare_iff (m : Mnemonic) : m ∈ [.cmp, .cpx, .cpy] ↔ m.group = .compare := by
  cases m <;> decide

theorem mnemonic_mem_branch_iff (m : Mnemonic) : m ∈ [.bpl, .bmi, .bvc, .bvs, .bne, .beq] ↔ m.group = .branch := by
  cases m <;> decide

/-- A configuration holds a row exactly when it holds an instruction of the row's opcode byte. -/
theorem holds_iff_inTable (cfg : Config) (i : Instr) (r : Row) (hr : tableRow i.opcode = some r) :
    cfg.holds r = true ↔ inTable cfg i := by
  obtain ⟨-, hop⟩ := tableRow_some _ _ hr
  obtain ⟨r', hr', -, -, hgroup⟩ := tableRow_instr i
  obtain rfl : r = r' := Option.some.inj (hr.symm.trans hr')
  simp only [inTable, mnemonic_mem_logic_iff, mnemonic_mem_compare_iff, mnemonic_mem_branch_iff, Config.holds, hgroup]
  cases i.mnemonic.group <;> simp [hop]

/-- The table of a configuration has an entry for an instruction's opcode byte exactly when it holds the instruction. -/
theorem entry_opcode_isSome_iff (cfg : Config) (i : Instr) :
    (cfg.entry i.opcode).isSome = true ↔ inTable cfg i := by
  obtain ⟨r, hr, -⟩ := tableRow_instr i
  rw [← holds_iff_inTable cfg i r hr]
  simp [Config.entry, hr]

/-- The sample operand of a mode is of that mode. -/
@[simp] theorem mode_sample (m : Mode) : m.sample.mode = m := by
  cases m <;> rfl

/-- Every byte that has a row is the opcode byte of an instruction (R102). -/
theorem exists_instr_of_tableRow (op : Byte) (r : Row) (h : tableRow op = some r) : ∃ i : Instr, i.opcode = op := by
  obtain ⟨hmem, hop⟩ := tableRow_some _ _ h
  obtain ⟨i, -, hi, -⟩ := row_assemble r hmem r.mode.sample (mode_sample r.mode)
  exact ⟨i, hi.trans hop⟩

/-- The row of an instruction's opcode byte has the instruction's mnemonic, mode and encoded length (R90, R91, R92). -/
theorem tableRow_opcode (i : Instr) (r : Row) (h : tableRow i.opcode = some r) :
    r.opcode = i.opcode ∧ r.mnemonic = i.mnemonic ∧ r.mode = i.mode ∧ r.length = (encode i).length := by
  obtain ⟨r', hr', hmnemonic, hmode, -⟩ := tableRow_instr i
  obtain rfl : r = r' := Option.some.inj (h.symm.trans hr')
  exact ⟨(tableRow_some _ _ h).2, hmnemonic, hmode, by rw [encode_length, Row.length, hmode, Instr.length]⟩

/-- Settles O4: a byte with an entry is an instruction's opcode, and on opcodes having an entry is being held. -/
theorem tableOfEachConfiguration : Obligations.TableOfEachConfiguration := by
  unfold Obligations.TableOfEachConfiguration
  refine fun cfg op => ⟨⟨fun hsome => ?_, ?_⟩, ?_⟩
  · obtain ⟨r, hentry⟩ := Option.isSome_iff_exists.mp hsome
    obtain ⟨i, rfl⟩ := exists_instr_of_tableRow op r (entry_some cfg op r hentry).1
    exact ⟨i, rfl, (entry_opcode_isSome_iff cfg i).mp hsome⟩
  · rintro ⟨i, rfl, hheld⟩
    exact (entry_opcode_isSome_iff cfg i).mpr hheld
  · rintro r i hentry rfl
    exact tableRow_opcode i r (entry_some cfg _ r hentry).1

end Sys2Proof.Proofs

/-! What one step of a running machine can do to configuration, B, memory and phase (R306, R307, R311), said once; the
invariant of the machine, and the three kinds of step. -/

namespace Sys2Proof.Proofs

open Sys2Proof Sys2Proof.Machine Sys2Proof.Claims

/-- BRK has one form, of opcode byte 0x00 (R258). -/
theorem opcode_of_brk (i : Instr) (h : i.mnemonic = .brk) : i.opcode = 0x00 := by
  cases i
  case brk => rfl
  all_goals cases h

/-- A raise that is not BRK's halt and whose record is true of the state it leaves (R330 to R334, R338). -/
def TrueRaise (s : State) (r : HaltReason) : Prop := r ≠ .brk ∧ (s.raise r).HaltRecordTrue

theorem trueRaise_unimplementedOpcode (s : State) (h : s.cfg.entry (s.mem.read s.pc) = none) :
    TrueRaise s (.unimplementedOpcode (s.mem.read s.pc) s.pc) :=
  ⟨by simp, rfl, rfl, h⟩

theorem trueRaise_outOfRangeAccess (s : State) (h : s.cfg.topPolicy = .fault) :
    TrueRaise s (.outOfRangeAccess 0xFFFF) :=
  ⟨by simp, rfl, h⟩

theorem trueRaise_branchOverflow (s : State) (t : Int) (ht : t < 0 ∨ 0xFFFF < t)
    (h : s.cfg.branchOverflow = .fatal) : TrueRaise s (.branchOverflow s.pc t) :=
  ⟨by simp, rfl, ht, h⟩

/-- A raise of the fetch is a true one (R331, R332, R337). -/
theorem trueRaise_of_fetch_error (s : State) (r : HaltReason) (h : fetch s = .error r) : TrueRaise s r := by
  rcases fetch_error s r h with ⟨hentry, rfl⟩ | ⟨-, -, rfl, hpolicy, -⟩
  · exact trueRaise_unimplementedOpcode s hentry
  · exact trueRaise_outOfRangeAccess s hpolicy

/-- What a step of a running machine leaves: the machine goes on, or BRK halts it behind itself, or a true raise changes
the phase only (R311). -/
structure StepOutcome (s t : State) : Prop where
  cfg : t.cfg = s.cfg
  break_flag : t.p.b = s.p.b
  memory_wf : s.mem.wf = true → t.mem.wf = true
  phase : t.phase = .running ∨
    (s.mem.read s.pc = 0x00 ∧ t = { s with pc := s.pc + 1, phase := .halted .brk }) ∨
    ∃ r, TrueRaise s r ∧ t = s.raise r

/-- Every step of a running machine answers a next state. -/
theorem step_outcome (s : State) (hs : s.phase = .running) : ∃ t, step s = .next t ∧ StepOutcome s t := by
  rcases step_cases s hs with ⟨r, hfetch, hstep⟩ | ⟨i, hfetch, hstep⟩
  · exact ⟨_, hstep, rfl, rfl, id, .inr (.inr ⟨r, trueRaise_of_fetch_error s r hfetch, rfl⟩)⟩
  · obtain ⟨t, hexec, hcfg, hb, hmem, hphase⟩ := exec_summary i s
    refine ⟨t, hstep.trans hexec, hcfg, hb, fun hwf => ?_, ?_⟩
    · rcases hmem with hmem | ⟨ea, v, -, hmem⟩ <;> rw [hmem]
      · exact hwf
      · exact Memory.wf_write _ _ _ hwf
    · rcases hphase with hphase | ⟨hbrk, rfl⟩ | ⟨-, -, hpolicy, rfl⟩ | ⟨-, hpolicy, x, hx, rfl⟩
      · exact .inl (hphase.trans hs)
      · obtain ⟨-, -, -, -, hop, -⟩ := fetch_ok s i hfetch
        exact .inr (.inl ⟨by rw [← hop, opcode_of_brk i hbrk], rfl⟩)
      · exact .inr (.inr ⟨_, trueRaise_outOfRangeAccess s hpolicy, rfl⟩)
      · exact .inr (.inr ⟨_, trueRaise_branchOverflow s x hx hpolicy, rfl⟩)

/-- A step that answers a next state runs a running machine, or finds a halted one and changes nothing (R301). -/
theorem running_or_eq_of_step (s t : State) (h : step s = .next t) : s.phase = .running ∨ t = s := by
  cases hs : s.phase with
  | notStarted => rw [step_notStarted s hs] at h; cases h
  | halted r => rw [step_halted s r hs] at h; cases h; exact .inr rfl
  | running => exact .inl rfl

/-- The outcome of a step whose next state is given. -/
theorem stepOutcome_of_step (s t : State) (hs : s.phase = .running) (h : step s = .next t) : StepOutcome s t := by
  obtain ⟨t', hstep, hout⟩ := step_outcome s hs
  rw [h] at hstep
  cases hstep
  exact hout

/-- A state that a step leaves has a true halt record (R306, R307). -/
theorem StepOutcome.haltRecordTrue {s t : State} (h : StepOutcome s t) : t.HaltRecordTrue := by
  rcases h.phase with hrunning | ⟨hbyte, rfl⟩ | ⟨r, ⟨-, hrecord⟩, rfl⟩
  · simp [State.HaltRecordTrue, hrunning]
  · simpa [State.HaltRecordTrue] using hbyte
  · exact hrecord

/-- Settles O56: the outcome of a running machine's step keeps each part of the invariant, and no other step changes the
state. -/
theorem invariantKeptByEveryStep : Obligations.InvariantKeptByEveryStep := by
  unfold Obligations.InvariantKeptByEveryStep
  intro s t hinv hstep
  rcases running_or_eq_of_step s t hstep with hs | rfl
  · have hout := stepOutcome_of_step s t hs hstep
    exact ⟨hout.memory_wf hinv.memory_wf, hout.break_flag.trans hinv.break_clear, hout.haltRecordTrue⟩
  · exact hinv

/-- Settles O57: memory lists nothing, the flags are clear, and no halt is recorded. -/
theorem invariantHoldsAtReset : Obligations.InvariantHoldsAtReset := by
  unfold Obligations.InvariantHoldsAtReset
  exact ⟨reset_memory_wf, rfl, trivial⟩

/-- Settles O11: the three kinds of step are the three phases of a step's outcome. -/
theorem runningStepAnswersOneOfThree : Obligations.RunningStepAnswersOneOfThree := by
  unfold Obligations.RunningStepAnswersOneOfThree
  intro s hs
  obtain ⟨t, hstep, hout⟩ := step_outcome s hs
  refine ⟨t, hstep, hout.cfg, hout.phase.imp_right (Or.imp_right ?_)⟩
  rintro ⟨r, ⟨hr, -⟩, rfl⟩
  exact ⟨r, hr, rfl⟩

end Sys2Proof.Proofs

/-! What an instruction does to registers, flags and memory, as one function over all 130 instructions: every outcome of
`exec` agrees with it, so that a frame or a flag law is a case split over its 41 mnemonics. -/

namespace Sys2Proof.Proofs

open Sys2Proof Sys2Proof.Machine

/-- What a shift by `op` computes, from A or from the byte at `ea`: the result and the bit shifted out (R180). -/
def shifted (op : Byte → Bool → Byte × Bool) (o : Operand) (ea : Word) (s : State) : Byte × Bool :=
  op (if o = .accumulator then s.a else s.mem.read ea) s.p.c

/-- What a shift by `op` does, to A or to the byte at `ea` (R180). -/
def shiftEffect (op : Byte → Bool → Byte × Bool) (o : Operand) (ea : Word) (s : State) : State :=
  { s with
    a := if o = .accumulator then (shifted op o ea s).1 else s.a
    mem := if o = .accumulator then s.mem else s.mem.write ea (shifted op o ea s).1
    p := { s.p.setNZ (shifted op o ea s).1 with c := (shifted op o ea s).2 } }

/-- What an instruction does to registers, flags and memory, given its data operand `M` and its effective address `ea`,
where it has one: nothing for a branch, JMP and BRK. -/
def effect (i : Instr) (M : Byte) (ea : Word) (s : State) : State :=
  match i.mnemonic with
  | .adc => addWithCarry M s
  | .sbc => subtractWithCarry M s
  | .asl => shiftEffect shiftLeft i.operand ea s
  | .lsr => shiftEffect shiftRight i.operand ea s
  | .rol => shiftEffect rotateLeft i.operand ea s
  | .ror => shiftEffect rotateRight i.operand ea s
  | .lda => s.loadA M
  | .ldx => s.loadX M
  | .ldy => s.loadY M
  | .sta => s.store ea s.a
  | .stx => s.store ea s.x
  | .sty => s.store ea s.y
  | .tax => s.loadX s.a
  | .tay => s.loadY s.a
  | .txa => s.loadA s.x
  | .tya => s.loadA s.y
  | .clc => s.setP { s.p with c := false }
  | .sec => s.setP { s.p with c := true }
  | .cli => s.setP { s.p with i := false }
  | .sei => s.setP { s.p with i := true }
  | .cld => s.setP { s.p with d := false }
  | .sed => s.setP { s.p with d := true }
  | .clv => s.setP { s.p with v := false }
  | .inx => s.loadX (s.x + 1)
  | .and => s.loadA (s.a &&& M)
  | .ora => s.loadA (s.a ||| M)
  | .eor => s.loadA (s.a ^^^ M)
  | .bit => bitTest M s
  | .cmp => compareFlags s.a M s
  | .cpx => compareFlags s.x M s
  | .cpy => compareFlags s.y M s
  | .bcc | .bcs | .bpl | .bmi | .bvc | .bvs | .bne | .beq | .jmp | .brk => s

/-- `M` is the data operand of an instruction that reads one, `ea` the effective address of one that stores. -/
structure Operands (i : Instr) (s : State) (M : Byte) (ea : Word) : Prop where
  data : i.shape = .reads → operandByte i.operand s = .ok M
  stored : i.shape = .stores → effectiveAddress i.operand s = .ok ea
  modified : i.shape = .modifies → i.operand ≠ .accumulator → effectiveAddress i.operand s = .ok ea

/-- Every instruction has the operands it uses (R102). -/
theorem exists_operands (i : Instr) (s : State) : ∃ M ea, Operands i s M ea := by
  cases hi : i.shape with
  | reads =>
    obtain ⟨M, hM⟩ := reads_operand i s hi
    exact ⟨M, 0, fun _ => hM, by simp [hi], by simp [hi]⟩
  | stores =>
    obtain ⟨ea, hea⟩ := stores_address i s hi
    exact ⟨0, ea, by simp [hi], fun _ => hea, by simp [hi]⟩
  | modifies =>
    rcases modifies_address i s hi with ho | ⟨-, ea, hea⟩
    · exact ⟨0, 0, by simp [hi], by simp [hi], fun _ hne => absurd ho hne⟩
    · exact ⟨0, ea, by simp [hi], by simp [hi], fun _ _ => hea⟩
  | implied | branches | jumps | breaks => exact ⟨0, 0, by simp [hi], by simp [hi], by simp [hi]⟩

theorem shape_eq (i : Instr) : i.shape = i.mnemonic.shape := rfl

/-- An implied instruction has one byte (R92). -/
theorem length_of_implied (i : Instr) (h : i.shape = .implied) : i.length = 1 := by
  cases i
  case tax | tay | txa | tya | clc | sec | cli | sei | cld | sed | clv | inx => rfl
  all_goals cases h

/-- A shift does its effect and leaves PC behind itself. -/
theorem exec_eq_shiftEffect (i : Instr) (s : State) (M : Byte) (ea : Word) (op : Byte → Bool → Byte × Bool)
    (hs : i.shape = .modifies) (ho : Operands i s M ea)
    (hx : exec i s = if i.operand = .accumulator then accumulatorForm op s else modifyForm i.operand op s) :
    exec i s = .next ((shiftEffect op i.operand ea s).setPc (s.pc + BitVec.ofNat 16 i.length)) := by
  unfold shiftEffect shifted
  by_cases hacc : i.operand = .accumulator
  · rw [hx, Instr.length, Instr.mode]
    simp only [hacc, ↓reduceIte]
    exact accumulatorForm_eq op s
  · rw [hx]
    simp only [hacc, ↓reduceIte]
    exact modifyForm_eq _ op s ea (ho.modified hs hacc)

/-- The instructions that move PC by themselves or halt: branches, JMP and BRK. -/
def Controls (i : Instr) : Prop := i.shape = .branches ∨ i.shape = .jumps ∨ i.shape = .breaks

/-- Every instruction but a branch, JMP and BRK does its effect and leaves PC behind itself (R305). -/
theorem exec_eq_effect (i : Instr) (s : State) (M : Byte) (ea : Word) (ho : Operands i s M ea) (hc : ¬ Controls i) :
    exec i s = .next ((effect i M ea s).setPc (s.pc + BitVec.ofNat 16 i.length)) := by
  have hx := exec_eq_handler i s
  have hs := shape_eq i
  cases hm : i.mnemonic <;> rw [hm] at hx hs <;> simp only [handler] at hx <;> simp only [effect, hm]
  case adc | sbc | lda | ldx | ldy | and | ora | eor | bit | cmp | cpx | cpy =>
    exact hx.trans (readForm_eq _ _ s M (ho.data hs) rfl)
  case sta | stx | sty => exact hx.trans (storeForm_eq _ _ s ea (ho.stored hs))
  case asl | lsr | rol | ror => exact exec_eq_shiftEffect i s M ea _ hs ho hx
  case tax | tay | txa | tya | clc | sec | cli | sei | cld | sed | clv | inx =>
    rw [length_of_implied i hs]
    exact hx.trans (impliedForm_eq _ s rfl)
  case bcc | bcs | bpl | bmi | bvc | bvs | bne | beq | jmp | brk =>
    exact absurd (by simp [Controls, hs, Mnemonic.shape]) hc

theorem effect_of_controls (i : Instr) (M : Byte) (ea : Word) (s : State) (h : Controls i) : effect i M ea s = s := by
  rw [Controls, shape_eq] at h
  cases hm : i.mnemonic <;> simp only [effect, hm]
  all_goals simp [hm, Mnemonic.shape] at h

/-- A branch runs `Branch` on the flag it asks for (R202). -/
theorem exec_branch (i : Instr) (s : State) (h : i.shape = .branches) :
    exec i s = branchForm (i.operand.bytes.headD 0) (Claims.writesPc i.mnemonic s.p) s := by
  have hx := exec_eq_handler i s
  rw [shape_eq] at h
  cases hm : i.mnemonic <;> rw [hm] at hx h
  case bcc | bcs | bpl | bmi | bvc | bvs | bne | beq => exact hx
  all_goals cases h

theorem exec_jump (i : Instr) (s : State) (h : i.shape = .jumps) : exec i s = jumpForm i.operand s := by
  have hx := exec_eq_handler i s
  rw [shape_eq] at h
  cases hm : i.mnemonic <;> rw [hm] at hx h
  case jmp => exact hx
  all_goals cases h

theorem exec_break (i : Instr) (s : State) (h : i.shape = .breaks) : exec i s = breakForm s := by
  have hx := exec_eq_handler i s
  rw [shape_eq] at h
  cases hm : i.mnemonic <;> rw [hm] at hx h
  case brk => exact hx
  all_goals cases h

/-- Two states agree on registers, flags and memory. -/
structure SameData (t u : State) : Prop where
  a : t.a = u.a
  x : t.x = u.x
  y : t.y = u.y
  p : t.p = u.p
  mem : t.mem = u.mem

/-- A branch, JMP or BRK changes PC and the phase only. -/
theorem sameData_of_controls (i : Instr) (s t : State) (hc : Controls i) (hx : exec i s = .next t) : SameData t s := by
  rcases hc with hs | hs | hs
  · rw [exec_branch i s hs] at hx
    obtain ⟨ha, hx, hy, hp, hmem⟩ := branchForm_next _ _ s t hx
    exact ⟨ha, hx, hy, hp, hmem⟩
  · rw [exec_jump i s hs] at hx
    obtain ⟨ha, hx, hy, hp, hmem⟩ := jumpForm_next _ s t hx
    exact ⟨ha, hx, hy, hp, hmem⟩
  · rw [exec_break i s hs] at hx
    cases hx
    exact ⟨by simp, by simp, by simp, by simp, by simp⟩

/-- After an instruction registers, flags and memory are those of its effect. -/
theorem sameData_effect (i : Instr) (s t : State) (M : Byte) (ea : Word) (ho : Operands i s M ea)
    (hx : exec i s = .next t) : SameData t (effect i M ea s) := by
  by_cases hc : Controls i
  · rw [effect_of_controls i M ea s hc]
    exact sameData_of_controls i s t hc hx
  · rw [exec_eq_effect i s M ea ho hc] at hx
    cases hx
    exact ⟨rfl, rfl, rfl, rfl, rfl⟩

end Sys2Proof.Proofs

/-! Which registers and flags an instruction writes (R31, R32, R33, R36, R38), and what N and Z say after it (R37). -/

namespace Sys2Proof.Proofs

open Sys2Proof Sys2Proof.Machine Sys2Proof.Claims

/-! ## The frame of registers and flags -/

theorem mode_eq_accumulator_iff (o : Operand) : o.mode = .accumulator ↔ o = .accumulator := by
  cases o <;> simp [Operand.mode]

theorem effect_keeps_a (i : Instr) (M : Byte) (ea : Word) (s : State) (h : ¬ writesA i) :
    (effect i M ea s).a = s.a := by
  unfold writesA at h
  cases hm : i.mnemonic <;> simp only [effect, hm]
  case lda | txa | tya | adc | sbc | and | ora | eor => simp [hm] at h
  case asl | lsr | rol | ror =>
    have hacc : i.operand ≠ .accumulator := by simpa [hm, shifts, Instr.mode, mode_eq_accumulator_iff] using h
    simp [shiftEffect, hacc]
  all_goals rfl

theorem effect_keeps_x (i : Instr) (M : Byte) (ea : Word) (s : State) (h : ¬ writesX i) :
    (effect i M ea s).x = s.x := by
  unfold writesX at h
  cases hm : i.mnemonic <;> simp only [effect, hm]
  case ldx | tax | inx => simp [hm] at h
  all_goals rfl

theorem effect_keeps_y (i : Instr) (M : Byte) (ea : Word) (s : State) (h : ¬ writesY i) :
    (effect i M ea s).y = s.y := by
  unfold writesY at h
  cases hm : i.mnemonic <;> simp only [effect, hm]
  case ldy | tay => simp [hm] at h
  all_goals rfl

theorem effect_keeps_c (i : Instr) (M : Byte) (ea : Word) (s : State) (h : ¬ writesC i) :
    (effect i M ea s).p.c = s.p.c := by
  unfold writesC at h
  cases hm : i.mnemonic <;> simp only [effect, hm]
  case adc | sbc | clc | sec | cmp | cpx | cpy | asl | lsr | rol | ror => simp [hm, shifts] at h
  all_goals rfl

theorem effect_keeps_nz (i : Instr) (M : Byte) (ea : Word) (s : State) (h : ¬ writesNZ i) :
    (effect i M ea s).p.z = s.p.z ∧ (effect i M ea s).p.n = s.p.n := by
  unfold writesNZ at h
  cases hm : i.mnemonic <;> simp only [effect, hm, and_self]
  case lda | ldx | ldy | tax | tay | txa | tya | adc | sbc | inx | and | ora | eor | bit |
      cmp | cpx | cpy | asl | lsr | rol | ror => simp [hm, shifts] at h
  all_goals exact ⟨rfl, rfl⟩

theorem effect_keeps_i (i : Instr) (M : Byte) (ea : Word) (s : State) (h : i.mnemonic ∉ [.cli, .sei]) :
    (effect i M ea s).p.i = s.p.i := by
  cases hm : i.mnemonic <;> simp only [effect, hm]
  case cli | sei => simp [hm] at h
  all_goals rfl

theorem effect_keeps_d (i : Instr) (M : Byte) (ea : Word) (s : State) (h : i.mnemonic ∉ [.cld, .sed]) :
    (effect i M ea s).p.d = s.p.d := by
  cases hm : i.mnemonic <;> simp only [effect, hm]
  case cld | sed => simp [hm] at h
  all_goals rfl

theorem effect_keeps_v (i : Instr) (M : Byte) (ea : Word) (s : State) (h : ¬ writesV i) :
    (effect i M ea s).p.v = s.p.v := by
  unfold writesV at h
  cases hm : i.mnemonic <;> simp only [effect, hm]
  case adc | sbc | clv | bit => simp [hm] at h
  all_goals rfl

/-- B is written by no instruction (R38). -/
theorem effect_keeps_b (i : Instr) (M : Byte) (ea : Word) (s : State) : (effect i M ea s).p.b = s.p.b := by
  cases hm : i.mnemonic <;> simp only [effect, hm] <;> rfl

/-- Settles O40: registers and flags are those of the effect, which keeps each part for all but its writers. -/
theorem onlyTheirWritersWriteRegistersAndFlags : Obligations.OnlyTheirWritersWriteRegistersAndFlags := by
  unfold Obligations.OnlyTheirWritersWriteRegistersAndFlags
  intro i s t hx
  obtain ⟨M, ea, ho⟩ := exists_operands i s
  have ht := sameData_effect i s t M ea ho hx
  rw [ht.a, ht.x, ht.y, ht.p]
  exact ⟨effect_keeps_a i M ea s, effect_keeps_x i M ea s, effect_keeps_y i M ea s, effect_keeps_c i M ea s,
    effect_keeps_nz i M ea s, effect_keeps_i i M ea s, effect_keeps_d i M ea s, effect_keeps_v i M ea s,
    effect_keeps_b i M ea s⟩

/-! ## N and Z -/

/-- Z says whether `v` is zero, N is its bit 7 (R37). -/
def ReflectsNZ (p : Status) (v : Byte) : Prop := p.z = decide (v = 0) ∧ p.n = v.getLsbD 7

/-- Flags that agree on N and Z with `SetNZ(v)` reflect `v` (R160). -/
theorem reflectsNZ_of_setNZ (p q : Status) (v : Byte) (hz : p.z = (q.setNZ v).z) (hn : p.n = (q.setNZ v).n) :
    ReflectsNZ p v := by
  rw [setNZ_eq] at hz hn
  exact ⟨hz, hn⟩

theorem ReflectsNZ.not_both {p : Status} {v : Byte} (h : ReflectsNZ p v) : ¬ (p.n = true ∧ p.z = true) := by
  rw [h.1, h.2]
  rintro ⟨hn, hz⟩
  obtain rfl : v = 0 := by simpa using hz
  simp at hn

/-- `Compare(r, M)` makes N and Z reflect the 8-bit difference (R275). -/
theorem reflectsNZ_compareFlags (r m : Byte) (s : State) : ReflectsNZ (compareFlags r m s).p (r - m) := by
  refine reflectsNZ_of_setNZ _ s.p _ ?_ rfl
  show (r == m) = (r - m == 0)
  rw [Bool.eq_iff_iff, beq_iff_eq, beq_iff_eq]
  exact sub_eq_zero.symm

/-- An instruction that writes A makes N and Z reflect it. -/
theorem effect_reflects_a (i : Instr) (M : Byte) (ea : Word) (s : State) (h : writesA i) :
    ReflectsNZ (effect i M ea s).p (effect i M ea s).a := by
  unfold writesA at h
  cases hm : i.mnemonic <;> simp only [effect, hm]
  case lda | txa | tya | adc | sbc | and | ora | eor => exact reflectsNZ_of_setNZ _ s.p _ rfl rfl
  case asl | lsr | rol | ror =>
    have hacc : i.operand = .accumulator := by simpa [hm, shifts, Instr.mode, mode_eq_accumulator_iff] using h
    simp only [shiftEffect, hacc, ↓reduceIte]
    exact reflectsNZ_of_setNZ _ s.p _ rfl rfl
  all_goals simp [hm, shifts] at h

/-- An instruction that writes X makes N and Z reflect it. -/
theorem effect_reflects_x (i : Instr) (M : Byte) (ea : Word) (s : State) (h : writesX i) :
    ReflectsNZ (effect i M ea s).p (effect i M ea s).x := by
  unfold writesX at h
  cases hm : i.mnemonic <;> simp only [effect, hm]
  case ldx | tax | inx => exact reflectsNZ_of_setNZ _ s.p _ rfl rfl
  all_goals simp [hm] at h

/-- An instruction that writes Y makes N and Z reflect it. -/
theorem effect_reflects_y (i : Instr) (M : Byte) (ea : Word) (s : State) (h : writesY i) :
    ReflectsNZ (effect i M ea s).p (effect i M ea s).y := by
  unfold writesY at h
  cases hm : i.mnemonic <;> simp only [effect, hm]
  case ldy | tay => exact reflectsNZ_of_setNZ _ s.p _ rfl rfl
  all_goals simp [hm] at h

theorem shape_of_mem_shifts (i : Instr) (h : i.mnemonic ∈ shifts) : i.shape = .modifies := by
  rw [shape_eq]
  revert h
  cases i.mnemonic <;> decide

/-- A shift on memory makes N and Z reflect the cell (R180). -/
theorem effect_reflects_cell (i : Instr) (M : Byte) (ea : Word) (s : State) (h : i.mnemonic ∈ shifts)
    (hacc : i.operand ≠ .accumulator) : ReflectsNZ (effect i M ea s).p ((effect i M ea s).mem.read ea) := by
  cases hm : i.mnemonic <;> simp only [effect, hm]
  case asl | lsr | rol | ror =>
    simp only [shiftEffect, hacc, ↓reduceIte, Memory.read_write_same]
    exact reflectsNZ_of_setNZ _ s.p _ rfl rfl
  all_goals simp [hm, shifts] at h

/-- The instructions that R37 lists as leaving N and Z are none of their writers. -/
theorem not_writesNZ_of_leavesNZ (i : Instr) (h : i.mnemonic ∈ leavesNZ) : ¬ writesNZ i := by
  unfold writesNZ
  revert h
  cases i.mnemonic <;> decide

/-- Settles O39: the four places a value can be written to, each of them reflected; the others keep N and Z. -/
theorem flagsReflectTheWrittenValue : Obligations.FlagsReflectTheWrittenValue := by
  unfold Obligations.FlagsReflectTheWrittenValue
  intro i s
  obtain ⟨t, hx, -⟩ := exec_summary i s
  obtain ⟨M, ea, ho⟩ := exists_operands i s
  have ht := sameData_effect i s t M ea ho hx
  refine ⟨t, hx, fun v hv => ?_, fun hleaves => ?_⟩
  · show ReflectsNZ t.p v
    rw [ht.p]
    rcases hv with ⟨hw, rfl⟩ | ⟨hw, rfl⟩ | ⟨hw, rfl⟩ | ⟨hshift, hmode, ea', hea', rfl⟩
    · rw [ht.a]; exact effect_reflects_a i M ea s hw
    · rw [ht.x]; exact effect_reflects_x i M ea s hw
    · rw [ht.y]; exact effect_reflects_y i M ea s hw
    · have hacc : i.operand ≠ .accumulator := fun h => hmode ((mode_eq_accumulator_iff _).mpr h)
      have hea := ho.modified (shape_of_mem_shifts i hshift) hacc
      obtain rfl : ea' = ea := by rw [hea'] at hea; cases hea; rfl
      rw [ht.mem]
      exact effect_reflects_cell i M ea' s hshift hacc
  · rw [ht.p]
    exact effect_keeps_nz i M ea s (not_writesNZ_of_leavesNZ i hleaves)

/-- Every writer of N and Z but BIT makes them reflect one value. -/
theorem effect_reflects_some (i : Instr) (M : Byte) (ea : Word) (s : State) (h : writesNZ i)
    (hbit : i.mnemonic ≠ .bit) : ∃ v, ReflectsNZ (effect i M ea s).p v := by
  unfold writesNZ at h
  cases hm : i.mnemonic <;> simp only [effect, hm]
  case lda | ldx | ldy | tax | tay | txa | tya | adc | sbc | inx | and | ora | eor | asl | lsr | rol | ror =>
    exact ⟨_, reflectsNZ_of_setNZ _ s.p _ rfl rfl⟩
  case cmp | cpx | cpy => exact ⟨_, reflectsNZ_compareFlags _ _ _⟩
  case bit => exact absurd hm hbit
  all_goals simp [hm, shifts] at h

/-- No instruction but BIT sets N and Z together. -/
theorem exec_nz_not_both (i : Instr) (s t : State) (hbit : i.mnemonic ≠ .bit) (hx : exec i s = .next t)
    (hs : ¬ (s.p.n = true ∧ s.p.z = true)) : ¬ (t.p.n = true ∧ t.p.z = true) := by
  obtain ⟨M, ea, ho⟩ := exists_operands i s
  rw [(sameData_effect i s t M ea ho hx).p]
  by_cases hw : writesNZ i
  · obtain ⟨v, hv⟩ := effect_reflects_some i M ea s hw hbit
    exact hv.not_both
  · obtain ⟨hz, hn⟩ := effect_keeps_nz i M ea s hw
    rwa [hz, hn]

/-- A fetched instruction is in the configuration's table (R302). -/
theorem inTable_of_fetch_ok (s : State) (i : Instr) (h : fetch s = .ok i) : inTable s.cfg i := by
  obtain ⟨row, hrow, -, -, hop, -⟩ := fetch_ok s i h
  rw [← entry_opcode_isSome_iff, hop, hrow]
  rfl

/-- Without EXT_LOGIC no fetch gives BIT (R270). -/
theorem fetch_not_bit (s : State) (i : Instr) (hlogic : s.cfg.extLogic = false) (h : fetch s = .ok i) :
    i.mnemonic ≠ .bit := by
  intro hm
  have htable := inTable_of_fetch_ok s i h
  simp [inTable, hm, hlogic] at htable

/-- Settles O58: a raise keeps the flags, an instruction that is not BIT does not set both, and a step keeps the
configuration. -/
theorem negativeAndZeroNeverTogether : Obligations.NegativeAndZeroNeverTogether := by
  unfold Obligations.NegativeAndZeroNeverTogether
  intro s t hlogic hs hstep
  rcases running_or_eq_of_step s t hstep with hrunning | rfl
  · refine ⟨?_, by rw [(stepOutcome_of_step s t hrunning hstep).cfg, hlogic]⟩
    rcases step_cases s hrunning with ⟨r, -, hraise⟩ | ⟨i, hfetch, hexec⟩
    · rw [hraise] at hstep
      cases hstep
      exact hs
    · exact exec_nz_not_both i s t (fetch_not_bit s i hlogic hfetch) (hexec.symm.trans hstep) hs
  · exact ⟨hs, hlogic⟩

end Sys2Proof.Proofs

/-! Non-interference: a register or flag that an instruction does not read changes nothing in what it does but that part
itself (R31, R32, R33, R36). -/

namespace Sys2Proof.Proofs

open Sys2Proof Sys2Proof.Machine Sys2Proof.Claims

/-! ## Setting a part of the state before or after an instruction -/

/-- `put` sets registers or flags only: PC, memory and configuration stay, and it does not matter whether PC or the
phase changes before or after. -/
structure SetsData (put : State → State) : Prop where
  pc : ∀ u, (put u).pc = u.pc
  mem : ∀ u, (put u).mem = u.mem
  cfg : ∀ u, (put u).cfg = u.cfg
  setPc : ∀ u w, put (u.setPc w) = (put u).setPc w
  setPhase : ∀ u ph, put (u.setPhase ph) = (put u).setPhase ph

/-- Setting registers and flags from their old values is of this kind. -/
theorem setsData_fields (fa fx fy : Byte → Byte) (fp : Status → Status) :
    SetsData fun u => { u with a := fa u.a, x := fx u.x, y := fy u.y, p := fp u.p } :=
  ⟨fun _ => rfl, fun _ => rfl, fun _ => rfl, fun _ _ => rfl, fun _ _ => rfl⟩

/-- The modes whose address adds X. -/
def indexedByX : List Mode := [.zeroPageX, .absoluteX, .indirectX]

/-- The modes whose address adds Y. -/
def indexedByY : List Mode := [.zeroPageY, .absoluteY, .indirectY]

/-- An address depends on PC, memory, the configuration, and the index register of its mode. -/
theorem effectiveAddress_congr (o : Operand) (s u : State) (hpc : u.pc = s.pc) (hmem : u.mem = s.mem)
    (hcfg : u.cfg = s.cfg) (hx : o.mode ∈ indexedByX → u.x = s.x) (hy : o.mode ∈ indexedByY → u.y = s.y) :
    effectiveAddress o u = effectiveAddress o s := by
  have hzp : ∀ p, zpPointer u p = zpPointer s p := by simp [zpPointer, hmem, hcfg]
  have hop : opAddr u 1 = opAddr s 1 := by simp [opAddr, hpc, hcfg]
  cases o <;> simp only [effectiveAddress, noAddress, State.read16, hzp, hop, hpc, hmem, hcfg]
  case zeroPageX | absoluteX | indirectX => rw [hx (by simp [indexedByX, Operand.mode])]
  case zeroPageY | absoluteY | indirectY => rw [hy (by simp [indexedByY, Operand.mode])]

/-- So does a data operand. -/
theorem operandByte_congr (o : Operand) (s u : State) (hmem : u.mem = s.mem)
    (ha : effectiveAddress o u = effectiveAddress o s) : operandByte o u = operandByte o s := by
  cases o <;> simp only [operandByte, ha, hmem]

theorem Operands.congr {i : Instr} {s u : State} {M : Byte} {ea : Word} (h : Operands i s M ea) (hmem : u.mem = s.mem)
    (ha : effectiveAddress i.operand u = effectiveAddress i.operand s) : Operands i u M ea :=
  ⟨fun hs => (operandByte_congr _ _ _ hmem ha).trans (h.data hs), fun hs => ha.trans (h.stored hs),
    fun hs hacc => ha.trans (h.modified hs hacc)⟩

section
variable {put : State → State} (hput : SetsData put)
include hput

theorem advance_put (s s' : State) (len : Nat) : (put s).advance len (put s') = put (s.advance len s') := by
  unfold State.advance
  rw [hput.pc, hput.pc]
  split
  · exact (hput.setPc _ _).symm
  · rfl

/-- The end of an instruction commutes with `put` if what its handler did does. -/
theorem complete_put (s : State) (len : Nat) (h : Except HaltReason State) :
    complete (put s) len (h.map put) = mapNext put (complete s len h) := by
  cases h with
  | error r => exact congrArg Host.Outcome.next (hput.setPhase s _).symm
  | ok s' => exact congrArg Host.Outcome.next (advance_put hput s s' len)

theorem branchForm_put (rel : Byte) (cond : Bool) (s : State) :
    branchForm rel cond (put s) = mapNext put (branchForm rel cond s) := by
  have hbase : branchBase (put s) = branchBase s := by simp [branchBase, hput.pc, hput.cfg]
  unfold branchForm
  rw [← complete_put hput, hbase, hput.cfg, hput.pc]
  congr 1
  cases cond with
  | false => rfl
  | true =>
    simp only [↓reduceIte, ← hput.setPc]
    split
    · cases s.cfg.branchOverflow <;> rfl
    · rfl

theorem jumpForm_put (o : Operand) (s : State) (ha : effectiveAddress o (put s) = effectiveAddress o s) :
    jumpForm o (put s) = mapNext put (jumpForm o s) := by
  unfold jumpForm
  rw [← complete_put hput, ha]
  cases effectiveAddress o s with
  | error r => rfl
  | ok ea => exact congrArg (complete _ _) (congrArg Except.ok (hput.setPc s ea).symm)

theorem breakForm_put (s : State) : breakForm (put s) = mapNext put (breakForm s) := by
  unfold breakForm
  rw [advance_put hput, ← hput.setPhase]
  rfl

/-- A branch, JMP or BRK commutes with `put` if neither its address nor its flag is the part that is set. -/
theorem exec_put_of_controls (i : Instr) (s : State) (hc : Controls i)
    (ha : effectiveAddress i.operand (put s) = effectiveAddress i.operand s)
    (hflag : writesPc i.mnemonic (put s).p = writesPc i.mnemonic s.p) :
    exec i (put s) = mapNext put (exec i s) := by
  rcases hc with hs | hs | hs
  · rw [exec_branch i _ hs, exec_branch i _ hs, hflag, branchForm_put hput]
  · rw [exec_jump i _ hs, exec_jump i _ hs, jumpForm_put hput _ _ ha]
  · rw [exec_break i _ hs, exec_break i _ hs, breakForm_put hput]

end

/-- The effect of an instruction does not depend on the part that `put` sets, and keeps it unless it writes it. -/
def EffectIgnores (i : Instr) (s : State) (put : State → State) (written : Prop) : Prop :=
  ∀ M ea, (written → effect i M ea (put s) = effect i M ea s) ∧
    (¬ written → effect i M ea (put s) = put (effect i M ea s))

/-- An instruction ignores a part if its effect, its address and its branch condition do. -/
theorem EffectIgnores.ignoresPart {put : State → State} {i : Instr} {s : State} {written : Prop}
    (heffect : EffectIgnores i s put written) (hput : SetsData put) (hx : i.mode ∈ indexedByX → (put s).x = s.x)
    (hy : i.mode ∈ indexedByY → (put s).y = s.y)
    (hflag : writesPc i.mnemonic (put s).p = writesPc i.mnemonic s.p) : IgnoresPart i s put written := by
  have ha := effectiveAddress_congr i.operand s (put s) (hput.pc s) (hput.mem s) (hput.cfg s) hx hy
  obtain ⟨M, ea, ho⟩ := exists_operands i s
  obtain ⟨hwritten, hkept⟩ := heffect M ea
  by_cases hc : Controls i
  · refine ⟨fun hw => ?_, fun _ => exec_put_of_controls hput i s hc ha hflag⟩
    have hs := hwritten hw
    rw [effect_of_controls i M ea _ hc, effect_of_controls i M ea _ hc] at hs
    rw [hs]
  · rw [IgnoresPart, exec_eq_effect i _ M ea (ho.congr (hput.mem s) ha) hc, exec_eq_effect i s M ea ho hc, hput.pc]
    refine ⟨fun hw => by rw [hwritten hw], fun hw => ?_⟩
    rw [hkept hw, ← hput.setPc]
    rfl

end Sys2Proof.Proofs

/-! The registers and flags that no instruction but their listed readers reads (R31, R32, R33, R36, R164, R336). -/

namespace Sys2Proof.Proofs

open Sys2Proof Sys2Proof.Machine Sys2Proof.Claims

/-- Sets the flags from their old values. -/
def putP (g : Status → Status) (u : State) : State := { u with p := g u.p }

/-! ## The effects -/

/-- An instruction that writes the part without reading it. -/
theorem ignored_of_written {t u t' : State} {written : Prop} (hw : written) (h : t = u) :
    (written → t = u) ∧ (¬ written → t = t') :=
  ⟨fun _ => h, fun hn => absurd hw hn⟩

/-- An instruction that neither reads nor writes the part. -/
theorem ignored_of_not_written {t u t' : State} {written : Prop} (hw : ¬ written) (h : t = t') :
    (written → t = u) ∧ (¬ written → t = t') :=
  ⟨fun hn => absurd hn hw, fun _ => h⟩

theorem effectIgnores_a (i : Instr) (s : State) (v : Byte) (h : ¬ readsA i) :
    EffectIgnores i s (fun u => { u with a := v }) (writesA i) := by
  intro M ea
  unfold readsA at h
  unfold writesA effect
  cases hm : i.mnemonic
  case sta | tax | tay | adc | sbc | and | ora | eor | bit | cmp => simp [hm] at h
  case lda | txa | tya => exact ignored_of_written (by simp) rfl
  case asl | lsr | rol | ror =>
    have hacc : i.operand ≠ .accumulator := by simpa [hm, shifts, Instr.mode, mode_eq_accumulator_iff] using h
    refine ignored_of_not_written (by simp [Instr.mode, mode_eq_accumulator_iff, hacc]) ?_
    simp only [shiftEffect, shifted, hacc, ↓reduceIte]
  all_goals exact ignored_of_not_written (by simp [shifts]) rfl

theorem effectIgnores_x (i : Instr) (s : State) (v : Byte) (h : ¬ readsX i) :
    EffectIgnores i s (fun u => { u with x := v }) (writesX i) := by
  intro M ea
  unfold readsX at h
  unfold writesX effect
  cases hm : i.mnemonic
  case stx | txa | inx | cpx => simp [hm] at h
  case ldx | tax => exact ignored_of_written (by simp) rfl
  all_goals exact ignored_of_not_written (by simp) rfl

theorem effectIgnores_y (i : Instr) (s : State) (v : Byte) (h : ¬ readsY i) :
    EffectIgnores i s (fun u => { u with y := v }) (writesY i) := by
  intro M ea
  unfold readsY at h
  unfold writesY effect
  cases hm : i.mnemonic
  case sty | tya | cpy => simp [hm] at h
  case ldy | tay => exact ignored_of_written (by simp) rfl
  all_goals exact ignored_of_not_written (by simp) rfl

theorem effectIgnores_c (i : Instr) (s : State) (f : Bool) (h : ¬ readsC i) :
    EffectIgnores i s (putP fun p => { p with c := f }) (writesC i) := by
  intro M ea
  unfold readsC at h
  unfold writesC effect
  cases hm : i.mnemonic
  case adc | sbc | rol | ror | bcc | bcs => simp [hm] at h
  case clc | sec | cmp | cpx | cpy | asl | lsr => exact ignored_of_written (by simp [shifts]) rfl
  all_goals exact ignored_of_not_written (by simp [shifts]) rfl

theorem effectIgnores_z (i : Instr) (s : State) (f : Bool) :
    EffectIgnores i s (putP fun p => { p with z := f }) (writesNZ i) := by
  intro M ea
  unfold writesNZ effect
  cases i.mnemonic
  case lda | ldx | ldy | tax | tay | txa | tya | adc | sbc | inx | and | ora | eor | bit | cmp |
      cpx | cpy | asl | lsr | rol | ror => exact ignored_of_written (by simp [shifts]) rfl
  all_goals exact ignored_of_not_written (by simp [shifts]) rfl

theorem effectIgnores_i (i : Instr) (s : State) (f : Bool) :
    EffectIgnores i s (putP fun p => { p with i := f }) (i.mnemonic ∈ [.cli, .sei]) := by
  intro M ea
  unfold effect
  cases i.mnemonic
  case cli | sei => exact ignored_of_written (by simp) rfl
  all_goals exact ignored_of_not_written (by simp) rfl

theorem effectIgnores_d (i : Instr) (s : State) (f : Bool) :
    EffectIgnores i s (putP fun p => { p with d := f }) (i.mnemonic ∈ [.cld, .sed]) := by
  intro M ea
  unfold effect
  cases i.mnemonic
  case cld | sed => exact ignored_of_written (by simp) rfl
  all_goals exact ignored_of_not_written (by simp) rfl

theorem effectIgnores_b (i : Instr) (s : State) (f : Bool) :
    EffectIgnores i s (putP fun p => { p with b := f }) False := by
  intro M ea
  unfold effect
  cases i.mnemonic
  all_goals exact ignored_of_not_written (by simp) rfl

theorem effectIgnores_v (i : Instr) (s : State) (f : Bool) :
    EffectIgnores i s (putP fun p => { p with v := f }) (writesV i) := by
  intro M ea
  unfold writesV effect
  cases i.mnemonic
  case adc | sbc | clv | bit => exact ignored_of_written (by simp) rfl
  all_goals exact ignored_of_not_written (by simp) rfl

theorem effectIgnores_n (i : Instr) (s : State) (f : Bool) :
    EffectIgnores i s (putP fun p => { p with n := f }) (writesNZ i) := by
  intro M ea
  unfold writesNZ effect
  cases i.mnemonic
  case lda | ldx | ldy | tax | tay | txa | tya | adc | sbc | inx | and | ora | eor | bit | cmp |
      cpx | cpy | asl | lsr | rol | ror => exact ignored_of_written (by simp [shifts]) rfl
  all_goals exact ignored_of_not_written (by simp [shifts]) rfl

/-! ## The flag that a branch asks for -/

theorem writesPc_setC (m : Mnemonic) (p : Status) (f : Bool) (h : m ∉ [.bcc, .bcs]) :
    writesPc m { p with c := f } = writesPc m p := by
  cases m
  case bcc | bcs => simp at h
  all_goals rfl

theorem writesPc_setZ (m : Mnemonic) (p : Status) (f : Bool) (h : m ∉ [.beq, .bne]) :
    writesPc m { p with z := f } = writesPc m p := by
  cases m
  case beq | bne => simp at h
  all_goals rfl

theorem writesPc_setV (m : Mnemonic) (p : Status) (f : Bool) (h : m ∉ [.bvc, .bvs]) :
    writesPc m { p with v := f } = writesPc m p := by
  cases m
  case bvc | bvs => simp at h
  all_goals rfl

theorem writesPc_setN (m : Mnemonic) (p : Status) (f : Bool) (h : m ∉ [.bmi, .bpl]) :
    writesPc m { p with n := f } = writesPc m p := by
  cases m
  case bmi | bpl => simp at h
  all_goals rfl

theorem carry_branches_readC {i : Instr} (h : i.mnemonic ∈ [.bcc, .bcs]) : readsC i :=
  (by decide : [Mnemonic.bcc, .bcs] ⊆ [.adc, .sbc, .rol, .ror, .bcc, .bcs]) h

/-! ## The obligations -/

/-- Settles O42: an instruction that does not read a register has neither its effect nor its address depend on it. -/
theorem onlyTheirReadersReadRegisters : Obligations.OnlyTheirReadersReadRegisters := by
  unfold Obligations.OnlyTheirReadersReadRegisters
  refine fun i s v => ⟨fun h => ?_, fun h => ?_, fun h => ?_⟩
  · exact (effectIgnores_a i s v h).ignoresPart (setsData_fields (fun _ => v) id id id) (fun _ => rfl)
      (fun _ => rfl) rfl
  · exact (effectIgnores_x i s v h).ignoresPart (setsData_fields id (fun _ => v) id id)
      (fun hmode => absurd (.inr hmode) h) (fun _ => rfl) rfl
  · exact (effectIgnores_y i s v h).ignoresPart (setsData_fields id id (fun _ => v) id) (fun _ => rfl)
      (fun hmode => absurd (.inr hmode) h) rfl

/-- No address depends on a flag: an instruction ignores a flag if its effect and its branch condition do. -/
theorem EffectIgnores.ignoresPart_putP {g : Status → Status} {i : Instr} {s : State} {written : Prop}
    (heffect : EffectIgnores i s (putP g) written) (hflag : writesPc i.mnemonic (g s.p) = writesPc i.mnemonic s.p) :
    IgnoresPart i s (putP g) written :=
  heffect.ignoresPart (setsData_fields id id id g) (fun _ => rfl) (fun _ => rfl) hflag

/-- Settles O43: a flag reaches no address, only its listed readers' effects, and only its own branches' conditions. -/
theorem onlyTheirReadersReadFlags : Obligations.OnlyTheirReadersReadFlags := by
  unfold Obligations.OnlyTheirReadersReadFlags
  refine fun i s f => ⟨fun h => ?_, fun h => ?_, ?_, ?_, ?_, fun h => ?_, fun h => ?_⟩
  · have hbranch : i.mnemonic ∉ [.bcc, .bcs] := fun hm => h (carry_branches_readC hm)
    exact (effectIgnores_c i s f h).ignoresPart_putP (writesPc_setC _ s.p f hbranch)
  · exact (effectIgnores_z i s f).ignoresPart_putP (writesPc_setZ _ s.p f h)
  · exact (effectIgnores_i i s f).ignoresPart_putP rfl
  · exact (effectIgnores_d i s f).ignoresPart_putP rfl
  · exact (effectIgnores_b i s f).ignoresPart_putP rfl
  · exact (effectIgnores_v i s f).ignoresPart_putP (writesPc_setV _ s.p f h)
  · exact (effectIgnores_n i s f).ignoresPart_putP (writesPc_setN _ s.p f h)

end Sys2Proof.Proofs

/-! Memory (20_memory.md): the byte write, the 16-bit and range calls, operand reads at the top of memory, the canonical
form, and which byte an instruction can change. -/

namespace Sys2Proof.Proofs

open Sys2Proof Sys2Proof.Machine Sys2Proof.Claims

/-- Settles O48: it is the model's law of a byte write. -/
theorem memWriteChangesOneByte : Obligations.MemWriteChangesOneByte := by
  unfold Obligations.MemWriteChangesOneByte
  exact Memory.read_write

/-! ## 16-bit accesses, away from the crossing that raises and at it (R63, R64) -/

theorem secondByte_eq (pol : TopPolicy) (a : Word) (h : a ≠ 0xFFFF ∨ pol = .wrap) : secondByte pol a = .ok (a + 1) := by
  unfold secondByte
  split
  next ha =>
    obtain rfl := h.resolve_left (not_not.mpr ha)
    subst ha
    rfl
  next => rfl

theorem read16_eq (pol : TopPolicy) (m : Memory) (a : Word) (h : a ≠ 0xFFFF ∨ pol = .wrap) :
    m.read16 pol a = .ok (leWord (m.read a) (m.read (a + 1))) := by
  simp [Memory.read16, secondByte_eq pol a h]

theorem write16_eq (pol : TopPolicy) (m : Memory) (a v : Word) (h : a ≠ 0xFFFF ∨ pol = .wrap) :
    m.write16 pol a v = .ok ((m.write a (lowByte v)).write (a + 1) (highByte v)) := by
  simp [Memory.write16, secondByte_eq pol a h]

theorem read16_fault (m : Memory) : m.read16 .fault 0xFFFF = .error (.outOfRangeAccess 0xFFFF) := rfl

theorem write16_fault (m : Memory) (v : Word) : m.write16 .fault 0xFFFF v = .error (.outOfRangeAccess 0xFFFF) := rfl

/-- The second byte of a 16-bit write leaves the first alone. -/
theorem read_first_of_write_pair (m : Memory) (a : Word) (lo hi : Byte) :
    ((m.write a lo).write (a + 1) hi).read a = lo := by
  have hne : a ≠ a + 1 := by simp
  rw [Memory.read_write_other _ _ _ _ hne, Memory.read_write_same]

/-- Settles O49: the two bytes of an access differ, so both halves of the word stand, and nothing else moved. -/
theorem write16ThenRead16 : Obligations.Write16ThenRead16 := by
  unfold Obligations.Write16ThenRead16
  refine ⟨fun pol m a v h => ?_, fun m v => ⟨write16_fault m v, read16_fault m⟩⟩
  have hlow := read_first_of_write_pair m a (lowByte v) (highByte v)
  have hhigh := Memory.read_write_same (m.write a (lowByte v)) (a + 1) (highByte v)
  refine ⟨_, write16_eq pol m a v h, ?_, hlow.trans (lowByte_eq v), hhigh.trans (highByte_eq v), fun b hb hb' => ?_⟩
  · rw [read16_eq pol _ a h, hlow, hhigh, leWord_low_high]
  · rw [Memory.read_write_other _ _ _ _ hb', Memory.read_write_other _ _ _ _ hb]

/-! ## Range writes -/

theorem writeRange_eq (m : Memory) (start : Word) (bytes : List Byte) (h : start.toNat + bytes.length ≤ 0x10000) :
    m.writeRange start bytes = .ok (m.writeBytes start bytes) :=
  if_neg (by omega)

theorem writeRange_overflow (m : Memory) (start : Word) (bytes : List Byte)
    (h : 0x10000 < start.toNat + bytes.length) : m.writeRange start bytes = .error .rangeOverflow :=
  if_pos h

/-- Settles O50: a range that fits does not wrap, so no byte of it is overwritten. -/
theorem writeRangeAllOrNothing : Obligations.WriteRangeAllOrNothing := by
  unfold Obligations.WriteRangeAllOrNothing
  exact fun m start bytes => ⟨fun h => ⟨_, writeRange_eq m start bytes h,
    fun k hk => Memory.read_writeBytes_inside bytes m start k h hk,
    fun b hb => Memory.read_writeBytes_outside bytes m start b h hb⟩, writeRange_overflow m start bytes⟩

/-! ## Operand reads at the top of memory (R131, R132) -/

theorem opAddr_eq (s : State) (k : Nat) (h : s.pc.toNat + k ≤ 0xFFFF ∨ s.cfg.topPolicy = .wrap) :
    opAddr s k = .ok (BitVec.ofNat 16 (s.pc.toNat + k)) := by
  simp only [opAddr]
  split
  next hk => simp [h.resolve_left (by omega)]
  next => rfl

theorem opAddr_fault (s : State) (k : Nat) (h : 0xFFFF < s.pc.toNat + k) (hpol : s.cfg.topPolicy = .fault) :
    opAddr s k = .error (.outOfRangeAccess 0xFFFF) := by
  simp [opAddr, h, hpol]

theorem operandWord_eq (s : State) (h : s.pc.toNat + 2 ≤ 0xFFFF ∨ s.cfg.topPolicy = .wrap) :
    operandWord s = .ok (leWord (s.mem.read (s.pc + 1)) (s.mem.read (s.pc + 2))) := by
  rcases operandWord_cases s with ⟨hpc, hfault, -⟩ | ⟨-, hword⟩
  · simp [hfault] at h
    omega
  · exact hword

theorem operandWord_fault (s : State) (h : 0xFFFF < s.pc.toNat + 2) (hpol : s.cfg.topPolicy = .fault) :
    operandWord s = .error (.outOfRangeAccess 0xFFFF) := by
  rcases operandWord_cases s with ⟨-, -, hraise⟩ | ⟨hok, -⟩
  · exact hraise
  · simp [hpol] at hok
    omega

/-- Settles O46: each read gives its word away from the crossing and under `Wrap`, and raises at it under `Fault`. -/
theorem topOfMemoryPolicies : Obligations.TopOfMemoryPolicies := by
  unfold Obligations.TopOfMemoryPolicies
  refine ⟨fun pol m a ha => ⟨_, read16_eq pol m a (.inl ha), leWord_toNat _ _⟩,
    fun m => ⟨read16_fault m, _, read16_eq .wrap m 0xFFFF (.inr rfl), leWord_toNat _ _⟩,
    fun s k hk => ⟨fun h => ⟨_, opAddr_eq s k (.inl h), ?_⟩, opAddr_fault s k,
      fun h hpol => ⟨_, opAddr_eq s k (.inr hpol), ?_⟩⟩,
    fun s => ⟨fun h => ⟨_, operandWord_eq s h, leWord_toNat _ _⟩, operandWord_fault s⟩⟩
  all_goals
    have := s.pc.isLt
    rw [BitVec.toNat_ofNat]
    omega

/-! ## The canonical form -/

/-- With rising addresses, a listed pair's byte is what its address reads as. -/
theorem get_of_mem (m : Memory) (c : Host.Cell) (h : m.Pairwise fun p q => p.1 < q.1) (hc : c ∈ m) :
    Memory.get m c.1 = c.2 := by
  induction m with
  | nil => cases hc
  | cons d m ih =>
    obtain ⟨hd, hm⟩ := List.pairwise_cons.mp h
    rcases List.mem_cons.mp hc with rfl | hc
    · simp [Memory.get]
    · simp [Memory.get, (hd c hc).ne, ih hm hc]

/-- What an address reads as, unless it reads as an unlisted one, is listed there. -/
theorem mem_of_get (m : Memory) (a : Nat) (h : Memory.get m a ≠ Memory.unlisted) : (a, Memory.get m a) ∈ m := by
  induction m with
  | nil => exact absurd rfl h
  | cons d m ih =>
    simp only [Memory.get] at h ⊢
    split at h
    next hd => simp [← hd]
    next hd => simp [hd, ih h]

/-- A canonical memory lists exactly the bytes that do not read as unlisted ones. -/
theorem mem_iff_of_wf (m : Memory) (h : m.wf = true) (c : Host.Cell) :
    c ∈ m ↔ c.1 < 65536 ∧ c.2 ≠ Memory.unlisted ∧ m.read (BitVec.ofNat 16 c.1) = c.2 := by
  obtain ⟨hsorted, hcells⟩ := (Memory.wf_iff m).mp h
  have hread (hlt : c.1 < 65536) : m.read (BitVec.ofNat 16 c.1) = Memory.get m c.1 := by
    simp [Memory.read, Nat.mod_eq_of_lt hlt]
  constructor
  · intro hc
    obtain ⟨hlt, hne⟩ := hcells c hc
    exact ⟨hlt, hne, (hread hlt).trans (get_of_mem m c hsorted hc)⟩
  · rintro ⟨hlt, hne, hc⟩
    rw [hread hlt] at hc
    have hmem := mem_of_get m c.1 (hc ▸ hne)
    rwa [hc] at hmem

/-- Settles O51: memories that read alike list the same pairs, and rising addresses fix the order. -/
theorem canonicalMemoriesAreExtensional : Obligations.CanonicalMemoriesAreExtensional := by
  unfold Obligations.CanonicalMemoriesAreExtensional
  intro m m' h h' hread
  have hmem (c : Host.Cell) : c ∈ m ↔ c ∈ m' := by
    rw [mem_iff_of_wf m h, mem_iff_of_wf m' h', hread]
  exact List.Pairwise.eq_of_mem_iff (r := InvImage (· < ·) Prod.fst) ((Memory.wf_iff m).mp h).1
    ((Memory.wf_iff m').mp h').1 hmem

/-! ## The frame of memory -/

theorem effect_keeps_mem (i : Instr) (M : Byte) (ea : Word) (s : State) (h : ¬ storesToMemory i) :
    (effect i M ea s).mem = s.mem := by
  unfold storesToMemory at h
  cases hm : i.mnemonic <;> simp only [effect, hm]
  case sta | stx | sty => simp [hm] at h
  case asl | lsr | rol | ror =>
    have hacc : i.operand = .accumulator := by simpa [hm, shifts, Instr.mode, mode_eq_accumulator_iff] using h
    simp [shiftEffect, hacc]
  all_goals rfl

/-- Whatever an instruction writes to memory, it writes at its effective address. -/
theorem effect_keeps_other_bytes (i : Instr) (M : Byte) (ea b : Word) (s : State) (hb : b ≠ ea) :
    (effect i M ea s).mem.read b = s.mem.read b := by
  cases hm : i.mnemonic <;> simp only [effect, hm]
  case sta | stx | sty => exact Memory.read_write_other _ _ _ _ hb
  case asl | lsr | rol | ror =>
    simp only [shiftEffect]
    split
    · rfl
    · exact Memory.read_write_other _ _ _ _ hb
  all_goals rfl

theorem shape_of_mem_stores (i : Instr) (h : i.mnemonic ∈ [.sta, .stx, .sty]) : i.shape = .stores := by
  rw [shape_eq]
  revert h
  cases i.mnemonic <;> decide

/-- The address among a storing instruction's operands is its effective address. -/
theorem Operands.address_of_storesToMemory {i : Instr} {s : State} {M : Byte} {ea : Word} (ho : Operands i s M ea)
    (h : storesToMemory i) : effectiveAddress i.operand s = .ok ea := by
  rcases h with hstore | ⟨hshift, hmode⟩
  · exact ho.stored (shape_of_mem_stores i hstore)
  · exact ho.modified (shape_of_mem_shifts i hshift) fun hacc => hmode ((mode_eq_accumulator_iff _).mpr hacc)

/-- Settles O41: memory is that of the effect, which writes for a storing instruction only and at its address only. -/
theorem memoryChangesOnlyAtTheEffectiveAddress : Obligations.MemoryChangesOnlyAtTheEffectiveAddress := by
  unfold Obligations.MemoryChangesOnlyAtTheEffectiveAddress
  intro i s t hx
  obtain ⟨M, ea, ho⟩ := exists_operands i s
  rw [(sameData_effect i s t M ea ho hx).mem]
  exact ⟨fun h b => by rw [effect_keeps_mem i M ea s h],
    fun h => ⟨ea, ho.address_of_storesToMemory h, fun b hb => effect_keeps_other_bytes i M ea b s hb⟩⟩

end Sys2Proof.Proofs

/-! Encoding and the table (30_encoding.md): decoding inverts encoding and only that, the rows by number, the opcode
bytes that have no row, and the halt that no step reaches. -/

namespace Sys2Proof.Proofs

open Sys2Proof Sys2Proof.Machine Sys2Proof.Claims

/-! ## Decoding and encoding (R90, R92, R93) -/

/-- Bytes decode exactly when the first one has a row, the row's mode takes its operand from the others, and the row's
mnemonic has that form. -/
theorem decode_cons_iff (op : Byte) (bs rest : List Byte) (i : Instr) :
    decode (op :: bs) = .ok (i, rest) ↔ ∃ r o, tableRow op = some r ∧ r.mode.takeOperand bs = some (o, rest) ∧
      assemble r.mnemonic o = some i := by
  cases hrow : tableRow op with
  | none => simp [decode, hrow]
  | some r =>
    cases htake : r.mode.takeOperand bs with
    | none => simp [decode, hrow, htake]
    | some taken =>
      obtain ⟨o, rest'⟩ := taken
      cases hform : assemble r.mnemonic o <;> simp [decode, hrow, htake, hform, and_comm]

/-- What decodes is the encoding of the instruction, and behind it the bytes left over. -/
theorem eq_encode_append_of_decode (bs rest : List Byte) (i : Instr) (h : decode bs = .ok (i, rest)) :
    bs = encode i ++ rest := by
  cases bs with
  | nil => cases h
  | cons op bs =>
    obtain ⟨r, o, hrow, htake, hform⟩ := (decode_cons_iff op bs rest i).mp h
    obtain ⟨hmem, rfl⟩ := tableRow_some op r hrow
    obtain ⟨hmode, rfl⟩ := (takeOperand_iff r.mode bs rest o).mp htake
    obtain ⟨j, hj, hopcode, -, hoperand⟩ := row_assemble r hmem o hmode
    obtain rfl : j = i := Option.some.inj (hj.symm.trans hform)
    rw [encode, hopcode, hoperand, List.cons_append]

/-- The encoding of an instruction decodes to it, whatever bytes follow. -/
theorem decode_encode_append (i : Instr) (rest : List Byte) : decode (encode i ++ rest) = .ok (i, rest) := by
  obtain ⟨r, hrow, hmnemonic, hmode, -⟩ := tableRow_instr i
  exact (decode_cons_iff _ _ _ _).mpr ⟨r, i.operand, hrow, (takeOperand_iff _ _ _ _).mpr ⟨hmode.symm, rfl⟩,
    hmnemonic ▸ assemble_instr i⟩

theorem decode_encode (i : Instr) : decode (encode i) = .ok (i, []) := by
  simpa using decode_encode_append i []

/-- Settles O1: what decodes is an encoding, and every encoding decodes to its instruction. -/
theorem decodeAndEncodeAgree : Obligations.DecodeAndEncodeAgree := by
  unfold Obligations.DecodeAndEncodeAgree
  refine fun bs rest i => ⟨eq_encode_append_of_decode bs rest i, ?_⟩
  rintro rfl
  exact decode_encode_append i rest

/-- Settles O2: the twelve words are the encodings of their instructions, and 0xCA has no row. -/
theorem sampleWordsDecode : Obligations.SampleWordsDecode := by
  unfold Obligations.SampleWordsDecode
  exact ⟨decode_encode (.jmpAbsolute 0x8004), decode_encode .brk, decode_encode (.ldaImmediate 0x01),
    decode_encode (.jmpIndirect 0x0120), decode_encode (.adcIndirectY 0x86), decode_encode (.aslAbsoluteX 0xFFF0),
    decode_encode (.stxZeroPageY 0x10), decode_encode (.bcs 0xF0), decode_encode .inx,
    decode_encode (.bitAbsolute 0x1234), decode_encode (.cpxImmediate 0x05), decode_encode (.bne 0xF9), rfl⟩

/-! ## The official opcodes, with a row and without (R91, R96 to R101)

The 130 rows and the 21 bytes of R98 and R99 are 151 different bytes: from this follow the uniqueness of the rows, that the
21 have none, and the count of the bytes left over. -/

/-- The opcode bytes of the table, then those that R98 and R99 leave out of it. -/
def officialOpcodes : List Byte := rows.map Row.opcode ++ (opcodesOfR98 ++ opcodesOfR99)

/-- The opcode bytes of the base table. -/
def baseOpcodes : List Byte := (baseRows0 ++ baseRows1 ++ baseRows2 ++ baseRows3).map Row.opcode

/-- The opcode bytes of the optional rows, then those that R98 and R99 leave out. -/
def otherOpcodes : List Byte :=
  (logicRows ++ compareRows ++ branchRows).map Row.opcode ++ (opcodesOfR98 ++ opcodesOfR99)

theorem officialOpcodes_eq : officialOpcodes = baseOpcodes ++ otherOpcodes := by
  simp [officialOpcodes, baseOpcodes, otherOpcodes, rows]

theorem officialOpcodes_nodup : officialOpcodes.Nodup := by
  have hbase : baseOpcodes.Nodup := by decide
  have hother : otherOpcodes.Nodup := by decide
  have hdisjoint : (baseOpcodes.all fun op => !otherOpcodes.contains op) = true := by decide
  rw [officialOpcodes_eq]
  exact hbase.append hother fun op hop => by simpa using List.all_eq_true.mp hdisjoint op hop

theorem rows_length : rows.length = 130 := by rfl

theorem officialOpcodes_length : officialOpcodes.length = 151 := by
  simp [officialOpcodes, rows_length, opcodesOfR98, opcodesOfR99]

/-- A byte has no row exactly when it is no row's opcode byte. -/
theorem tableRow_eq_none_iff (op : Byte) : tableRow op = none ↔ op ∉ rows.map Row.opcode := by
  simp [tableRow]

theorem rows_opcodes_pairwise_ne : rows.Pairwise (fun r q => r.opcode ≠ q.opcode) :=
  List.pairwise_map.mp (List.nodup_append.mp officialOpcodes_nodup).1

/-- The official opcodes of R98 and R99 have no row. -/
theorem tableRow_eq_none_of_mem_absent (op : Byte) (h : op ∈ opcodesOfR98 ++ opcodesOfR99) : tableRow op = none :=
  (tableRow_eq_none_iff op).mpr fun hrow => List.disjoint_of_nodup_append officialOpcodes_nodup hrow h

/-- Among the 256 byte values, as many are in a list of different bytes as the list is long. -/
theorem countP_range_mem (ops : List Byte) (h : ops.Nodup) :
    (List.range 256).countP (fun k => BitVec.ofNat 8 k ∈ ops) = ops.length := by
  have hperm : ((List.range 256).filter fun k => BitVec.ofNat 8 k ∈ ops).Perm (ops.map BitVec.toNat) := by
    refine (List.perm_ext_iff_of_nodup (List.nodup_range.filter _) (h.map BitVec.toNat_injective)).mpr fun k => ?_
    simp only [List.mem_filter, List.mem_range, decide_eq_true_eq, List.mem_map]
    constructor
    · rintro ⟨hk, hop⟩
      exact ⟨_, hop, by simpa using hk⟩
    · rintro ⟨op, hop, rfl⟩
      exact ⟨op.isLt, by simpa using hop⟩
  rw [List.countP_eq_length_filter, hperm.length_eq, List.length_map]

/-- The byte values that a list of different bytes leaves out. -/
theorem countP_range_not_mem (ops : List Byte) (h : ops.Nodup) :
    (List.range 256).countP (fun k => BitVec.ofNat 8 k ∉ ops) = 256 - ops.length := by
  have hsplit := List.length_eq_countP_add_countP (fun k => BitVec.ofNat 8 k ∈ ops) (l := List.range 256)
  rw [countP_range_mem ops h, List.length_range] at hsplit
  simp only [decide_eq_true_eq] at hsplit
  omega

/-- A byte without a row that is not among the 21 either is no official opcode. -/
theorem not_mem_officialOpcodes_iff (op : Byte) :
    op ∉ officialOpcodes ↔ ((tableRow op).isNone && !(opcodesOfR98 ++ opcodesOfR99).contains op) = true := by
  rw [officialOpcodes, List.mem_append, not_or, ← tableRow_eq_none_iff]
  simp

/-- 105 byte values are no official opcode: neither a row's nor one of R98 or R99 (R97). -/
theorem bytes_without_row_count :
    ((List.range 256).filter fun k =>
      (tableRow (BitVec.ofNat 8 k)).isNone && !(opcodesOfR98 ++ opcodesOfR99).contains (BitVec.ofNat 8 k)).length = 105 := by
  have hcount := countP_range_not_mem officialOpcodes officialOpcodes_nodup
  simp only [not_mem_officialOpcodes_iff, Bool.decide_eq_true, List.countP_eq_length_filter] at hcount
  rw [hcount, officialOpcodes_length]

/-- Settles O3: the rows are counted in groups, and the bytes without one by what the official opcodes leave over. -/
theorem tableCountsAndUniqueness : Obligations.TableCountsAndUniqueness := by
  unfold Obligations.TableCountsAndUniqueness
  exact ⟨rows_opcodes_pairwise_ne, rows_length, rfl, rfl, rfl, rfl, bytes_without_row_count⟩

/-! ## The halt at an official opcode without a row (R97, R98, R99) -/

/-- A byte without a row has no entry in any configuration. -/
theorem entry_eq_none_of_tableRow (cfg : Config) (op : Byte) (h : tableRow op = none) : cfg.entry op = none := by
  simp [Config.entry, h]

/-- A step at a byte without an entry raises `UnimplementedOpcode` (R331). -/
theorem step_of_entry_none (s : State) (hs : s.phase = .running) (h : s.cfg.entry (s.mem.read s.pc) = none) :
    step s = .next (s.raise (.unimplementedOpcode (s.mem.read s.pc) s.pc)) := by
  have hfetch : fetch s = .error (.unimplementedOpcode (s.mem.read s.pc) s.pc) := by simp [fetch, h]
  rw [step_running s hs, fetchAndRun, hfetch]

/-- A step at an official opcode that the spec leaves out raises `UnimplementedOpcode` in every configuration. -/
theorem step_of_mem_absent (s : State) (hs : s.phase = .running)
    (h : s.mem.read s.pc ∈ opcodesOfR98 ++ opcodesOfR99) :
    step s = .next (s.raise (.unimplementedOpcode (s.mem.read s.pc) s.pc)) :=
  step_of_entry_none s hs (entry_eq_none_of_tableRow s.cfg _ (tableRow_eq_none_of_mem_absent _ h))

/-- Settles O7: the eleven bytes of R98 are official opcodes without a row. -/
theorem decrementAndYIncrementHalt : Obligations.DecrementAndYIncrementHalt := by
  unfold Obligations.DecrementAndYIncrementHalt
  exact fun s hs h => step_of_mem_absent s hs (List.mem_append_left _ h)

/-- Settles O8: the ten bytes of R99 are official opcodes without a row. -/
theorem stackInstructionsAndNopHalt : Obligations.StackInstructionsAndNopHalt := by
  unfold Obligations.StackInstructionsAndNopHalt
  exact fun s hs h => step_of_mem_absent s hs (List.mem_append_right _ h)

/-! ## The modes without an operand (R102, R145, R334) -/

/-- Settles O47: the resolver raises by definition, and no running step leaves that halt, because a step's halt record is
true. -/
theorem invalidAddressingModeUseIsUnreachable : Obligations.InvalidAddressingModeUseIsUnreachable := by
  unfold Obligations.InvalidAddressingModeUseIsUnreachable
  constructor
  · rintro s m (rfl | rfl) <;> rfl
  · intro s t op m hstep hhalt
    refine (running_or_eq_of_step s t hstep).resolve_left fun hs => ?_
    have hrecord := (stepOutcome_of_step s t hs hstep).haltRecordTrue
    simp [State.HaltRecordTrue, hhalt] at hrecord

end Sys2Proof.Proofs

/-! The addressing modes (40_addressing.md): the address that `Resolve` reads from memory is that of the decoded operand,
each mode in numbers, and when a step raises `OutOfRangeAccess`. -/

namespace Sys2Proof.Proofs

open Sys2Proof Sys2Proof.Machine Sys2Proof.Claims

/-! ## The operand bytes that a fetch has read (R131, R132) -/

/-- The operand byte of a mode that has one is the byte at the first operand address. -/
theorem opAddr_of_operandByte (m : Mode) (s : State) (b : Byte) (hm : m.operandBytes = 1)
    (h : operandBytesAt m s = .ok [b]) : ∃ q, opAddr s 1 = .ok q ∧ b = s.mem.read q := by
  simp only [operandBytesAt, hm] at h
  cases hq : opAddr s 1 with
  | error r => rw [hq] at h; cases h
  | ok q => rw [hq] at h; cases h; exact ⟨q, rfl, rfl⟩

/-- The two operand bytes of a mode that has two are the operand word's. -/
theorem operandWord_of_operandBytes (m : Mode) (s : State) (w : Word) (hm : m.operandBytes = 2)
    (h : operandBytesAt m s = .ok [lowByte w, highByte w]) : operandWord s = .ok w := by
  simp only [operandBytesAt, hm] at h
  cases hw : operandWord s with
  | error r => rw [hw] at h; cases h
  | ok w' =>
    rw [hw] at h
    obtain ⟨hlow, hhigh⟩ : lowByte w' = lowByte w ∧ highByte w' = highByte w := by simpa [Except.map] using h
    rw [← leWord_low_high w', hlow, hhigh, leWord_low_high]

/-- `Resolve` gives the address of an operand whose bytes stand at PC (R134 to R145). -/
theorem resolve_eq_effectiveAddress (o : Operand) (s : State) (h : operandBytesAt o.mode s = .ok o.bytes) :
    resolve o.mode s = effectiveAddress o s := by
  cases o
  case noneAddressing | accumulator | immediate | relative => rfl
  case absolute | absoluteX | absoluteY | indirect =>
    have hw := operandWord_of_operandBytes _ s _ rfl h
    simp only [Operand.mode, resolve, effectiveAddress, hw, Except.map, Except.bind]
  case zeroPage | zeroPageX | zeroPageY | indirectX | indirectY =>
    obtain ⟨q, hq, rfl⟩ := opAddr_of_operandByte _ s _ rfl h
    simp only [Operand.mode, resolve, effectiveAddress, hq, Except.map]

/-- Settles O44: a fetch has read the operand's bytes at PC, which are the bytes that `Resolve` reads; a literal and a
displacement are the one byte there. -/
theorem resolverAgreesWithDecodedOperand : Obligations.ResolverAgreesWithDecodedOperand := by
  unfold Obligations.ResolverAgreesWithDecodedOperand
  intro s i hfetch _ _
  obtain ⟨-, -, -, -, -, hbytes⟩ := fetch_ok s i hfetch
  rw [Instr.mode] at hbytes ⊢
  refine ⟨resolve_eq_effectiveAddress i.operand s hbytes, fun imm ho => ?_, fun rel ho => ?_⟩ <;> rw [ho] at hbytes ⊢
  · exact opAddr_of_operandByte .immediate s imm rfl hbytes
  · exact opAddr_of_operandByte .relative s rel rfl hbytes

/-! ## The modes in numbers (R133 to R144) -/

/-- The byte at a word's number is the byte at the word. -/
theorem byteAt_toNat (s : State) (a : Word) : byteAt s a.toNat = s.mem.read a := by
  simp [byteAt]

/-- The byte at the number after a word's, modulo 2^16, is the byte behind it. -/
theorem byteAt_toNat_succ (s : State) (a : Word) : byteAt s (a.toNat + 1) = s.mem.read (a + 1) := by
  simp [byteAt, BitVec.ofNat_add]

/-- A zero-page address with an index added wraps at 256 (R136, R137). -/
theorem zext16_add_toNat (b c : Byte) : (zext16 (b + c)).toNat = (b.toNat + c.toNat) % 256 := by
  rw [zext16_toNat, BitVec.toNat_add]

/-- A word with an index added wraps at 65536 (R139, R140, R143). -/
theorem add_zext16_toNat (w : Word) (c : Byte) : (w + zext16 c).toNat = (w.toNat + c.toNat) % 65536 := by
  rw [BitVec.toNat_add, zext16_toNat]

/-- A zero-page pointer in numbers (R133). -/
theorem zpPointer_toNat (s : State) (p : Byte) : (zpPointer s p).toNat = zeroPagePointer s p.toNat := by
  rcases zpPointer_cases s p with ⟨hp, hptr⟩ | ⟨rfl, hwrap, hptr⟩ | ⟨rfl, hwrap, hptr⟩
  · have hn : p.toNat ≠ 0xFF := fun h => hp (BitVec.eq_of_toNat_eq h)
    rw [hptr, leWord_toNat, zeroPagePointer, if_neg hn, ← zext16_toNat p, byteAt_toNat, byteAt_toNat_succ, wordOf]
  all_goals
    rw [hptr, leWord_toNat]
    simp [zeroPagePointer, wordOf, byteAt, hwrap]

/-- A mode whose address is made from the operand byte (R135 to R137, R142, R143). -/
theorem resolves_of_operandByte {m : Mode} {s : State} {q : Word} {n : Nat} {f : Word → Word}
    (hm : resolve m s = (opAddr s 1).map f) (hq : opAddr s 1 = .ok q) (hn : (f q).toNat = n) : Resolves s m n :=
  ⟨f q, by rw [hm, hq]; rfl, hn⟩

/-- A mode whose address is made from the operand word (R139, R140). -/
theorem resolves_of_operandWord {m : Mode} {s : State} {w : Word} {n : Nat} {f : Word → Word}
    (hm : resolve m s = (operandWord s).map f) (hw : operandWord s = .ok w) (hn : (f w).toNat = n) : Resolves s m n :=
  ⟨f w, by rw [hm, hw]; rfl, hn⟩

/-- Indirect gives the word at its pointer, the high byte from the next address (R141). -/
theorem resolves_indirect (s : State) (w : Word) (hw : operandWord s = .ok w) (hne : w.toNat ≠ 0xFFFF) :
    Resolves s .indirect (wordOf (byteAt s w.toNat) (byteAt s (w.toNat + 1))) := by
  have hread : s.read16 w = .ok (leWord (s.mem.read w) (s.mem.read (w + 1))) := by
    rcases read16_cases s w with ⟨rfl, -, -⟩ | ⟨-, hread⟩
    · exact absurd rfl hne
    · exact hread
  refine ⟨_, ?_, by rw [leWord_toNat, byteAt_toNat, byteAt_toNat_succ, wordOf]⟩
  simpa only [resolve, hw, Except.bind] using hread

/-- Settles O45: away from the top of memory both operand reads succeed, and each mode's sums wrap at the width of the
words they are made in. -/
theorem addressingModesInNumbers : Obligations.AddressingModesInNumbers := by
  unfold Obligations.AddressingModesInNumbers
  intro s hpc b1 w
  have hbyte : opAddr s 1 = .ok (s.pc + 1) := by simp [opAddr_eq s 1 (.inl (by omega)), BitVec.ofNat_add]
  have hword := operandWord_eq s (.inl hpc)
  have hw : (leWord (s.mem.read (s.pc + 1)) (s.mem.read (s.pc + 2))).toNat = w := leWord_toNat _ _
  have hnext : (s.pc + 1).toNat = s.pc.toNat + 1 := by
    rw [BitVec.toNat_add]
    exact Nat.mod_eq_of_lt (by simp; omega)
  refine ⟨⟨_, hbyte, hnext⟩, ⟨_, hbyte, hnext⟩,
    resolves_of_operandByte rfl hbyte (zext16_toNat _),
    resolves_of_operandByte rfl hbyte (zext16_add_toNat _ _),
    resolves_of_operandByte rfl hbyte (zext16_add_toNat _ _),
    ⟨_, hword, hw⟩,
    resolves_of_operandWord rfl hword (by rw [add_zext16_toNat, hw]),
    resolves_of_operandWord rfl hword (by rw [add_zext16_toNat, hw]),
    fun hne => ?_,
    resolves_of_operandByte rfl hbyte (by rw [zpPointer_toNat, BitVec.toNat_add]),
    resolves_of_operandByte rfl hbyte (by rw [add_zext16_toNat, zpPointer_toNat])⟩
  rw [← hw] at hne ⊢
  exact resolves_indirect s _ hword hne

/-! ## When a step raises `OutOfRangeAccess` (R131, R132, R141, R332) -/

/-- A fetched instruction's encoding is the bytes at PC (R302). -/
theorem encode_of_fetch (s : State) (i : Instr) (h : fetch s = .ok i) : encode i = (bytesAtPc s).take i.length := by
  obtain ⟨-, -, -, -, hop, hbytes⟩ := fetch_ok s i h
  rcases operandBytesAt_cases i.mode s with ⟨-, -, hraise⟩ | ⟨-, hread⟩
  · rw [hraise] at hbytes
    cases hbytes
  · rw [hread] at hbytes
    injection hbytes with hbytes
    rw [encode, ← hbytes, hop, bytesAtPc, Instr.length, Mode.length, Nat.add_comm, List.take_succ_cons]

/-- Instructions of one encoding are one (R90). -/
theorem encode_injective (i j : Instr) (h : encode i = encode j) : i = j := by
  have hi := decode_encode i
  rw [h, decode_encode j] at hi
  cases hi
  rfl

/-- A fetch is of JMP indirect with its pointer at 0xFFFF exactly when it finds the opcode 0x6C and the pointer bytes
FF FF. -/
theorem eq_jmpIndirect_top_iff (s : State) (i : Instr) (h : fetch s = .ok i) :
    i = .jmpIndirect 0xFFFF ↔
      s.mem.read s.pc = 0x6C ∧ s.mem.read (s.pc + 1) = 0xFF ∧ s.mem.read (s.pc + 2) = 0xFF := by
  have henc := encode_of_fetch s i h
  constructor
  · rintro rfl
    have hbytes : [0x6C, 0xFF, 0xFF] = bytesAtPc s := henc
    simpa [bytesAtPc, eq_comm] using hbytes
  · rintro ⟨hop, hlow, hhigh⟩
    obtain ⟨-, -, -, -, hopcode, -⟩ := fetch_ok s i h
    obtain ⟨-, hmode⟩ := opcode_inj i (.jmpIndirect 0xFFFF) (hopcode.trans hop)
    refine encode_injective _ _ ?_
    rw [henc, Instr.length, hmode, bytesAtPc, hop, hlow, hhigh]
    rfl

/-- An entry stands under its own opcode byte (R91). -/
theorem opcode_of_entry {cfg : Config} {op : Byte} {row : Row} (h : cfg.entry op = some row) : row.opcode = op :=
  (tableRow_some op row (entry_some cfg op row h).1).2

/-- The fetch raises `OutOfRangeAccess` exactly when the bytes of the entry at PC cross the top under `Fault` (R337). -/
theorem fetch_outOfRangeAccess_iff (s : State) :
    fetch s = .error (.outOfRangeAccess 0xFFFF) ↔ s.cfg.topPolicy = .fault ∧
      ∃ row, s.cfg.entry (s.mem.read s.pc) = some row ∧ 0x10000 < s.pc.toNat + row.length := by
  constructor
  · intro h
    rcases fetch_error s _ h with ⟨-, hr⟩ | ⟨row, hrow, -, hpolicy, hlen⟩
    · cases hr
    · exact ⟨hpolicy, row, hrow, hlen⟩
  · rintro ⟨hpolicy, row, hrow, hlen⟩
    rcases operandBytesAt_cases row.mode s with ⟨-, -, hraise⟩ | ⟨hfits | hwrap, -⟩
    · simp only [fetch, hrow, hraise]
    · exact absurd hlen (Nat.not_lt.mpr hfits)
    · rw [hpolicy] at hwrap
      cases hwrap

/-- The one instruction that raises `OutOfRangeAccess` by itself is JMP indirect with its pointer at 0xFFFF, under
`Fault` (R141). -/
theorem exec_outOfRangeAccess_iff (i : Instr) (s : State) (hs : s.phase = .running) :
    exec i s = .next (s.raise (.outOfRangeAccess 0xFFFF)) ↔ s.cfg.topPolicy = .fault ∧ i = .jmpIndirect 0xFFFF := by
  constructor
  · intro h
    obtain ⟨t, ht, -, -, -, hphase⟩ := exec_summary i s
    rw [h] at ht
    cases ht
    rcases hphase with hphase | ⟨-, hbrk⟩ | ⟨hmnemonic, hoperand, hpolicy, -⟩ | ⟨-, -, x, -, hbranch⟩
    · simp [hs] at hphase
    · simpa using congrArg State.phase hbrk
    · exact ⟨hpolicy, instr_ext i (.jmpIndirect 0xFFFF) hmnemonic hoperand⟩
    · simpa using congrArg State.phase hbranch
  · rintro ⟨hpolicy, rfl⟩
    have hread : s.read16 0xFFFF = .error (.outOfRangeAccess 0xFFFF) := by
      rw [State.read16, hpolicy, read16_fault]
    rw [exec_jump _ s rfl]
    simp only [Instr.operand, jumpForm, effectiveAddress, hread, complete]

/-- A running step that halts with `OutOfRangeAccess` is the raise that carries 0xFFFF. -/
theorem eq_raise_of_outOfRangeAccess (s t : State) (a : Word) (hs : s.phase = .running) (hstep : step s = .next t)
    (h : t.phase = .halted (.outOfRangeAccess a)) : t = s.raise (.outOfRangeAccess 0xFFFF) := by
  rcases (stepOutcome_of_step s t hs hstep).phase with hrunning | ⟨-, rfl⟩ | ⟨r, ⟨-, hrecord⟩, rfl⟩
  · rw [hrunning] at h
    cases h
  · cases h
  · cases h
    obtain ⟨rfl, -⟩ : a = 0xFFFF ∧ s.cfg.topPolicy = .fault := hrecord
    rfl

/-- A running step is that raise exactly when the fetch raises, or gives a JMP indirect that does. -/
theorem step_outOfRangeAccess_iff (s : State) (hs : s.phase = .running) :
    step s = .next (s.raise (.outOfRangeAccess 0xFFFF)) ↔
      fetch s = .error (.outOfRangeAccess 0xFFFF) ∨
        (s.cfg.topPolicy = .fault ∧ fetch s = .ok (.jmpIndirect 0xFFFF)) := by
  rcases step_cases s hs with ⟨r, hfetch, hstep⟩ | ⟨i, hfetch, hstep⟩
  · simp [hstep, hfetch, State.raise, State.setPhase]
  · simpa [hstep, hfetch] using exec_outOfRangeAccess_iff i s hs

/-- Settles O9: such a step is a raise of the fetch, where the entry's bytes cross the top, or the fetched JMP indirect
with its pointer at 0xFFFF. -/
theorem outOfRangeAccessExactlyWhen : Obligations.OutOfRangeAccessExactlyWhen := by
  unfold Obligations.OutOfRangeAccessExactlyWhen
  refine fun s hs => ⟨⟨?_, ?_⟩, fun t a => eq_raise_of_outOfRangeAccess s t a hs⟩
  · rintro ⟨t, a, hstep, hhalt⟩
    obtain rfl := eq_raise_of_outOfRangeAccess s t a hs hstep hhalt
    rcases (step_outOfRangeAccess_iff s hs).mp hstep with hfetch | ⟨hpolicy, hfetch⟩
    · obtain ⟨hpolicy, row, hrow, hlen⟩ := (fetch_outOfRangeAccess_iff s).mp hfetch
      exact ⟨hpolicy, row, hrow, .inl hlen⟩
    · obtain ⟨row, hrow, -⟩ := fetch_ok s _ hfetch
      obtain ⟨hop, hptr⟩ := (eq_jmpIndirect_top_iff s _ hfetch).mp rfl
      exact ⟨hpolicy, row, hrow, .inr ⟨(opcode_of_entry hrow).trans hop, hptr⟩⟩
  · rintro ⟨hpolicy, row, hrow, hcause⟩
    refine ⟨_, _, (step_outOfRangeAccess_iff s hs).mpr ?_, rfl⟩
    rcases hcause with hlen | ⟨hop, hptr⟩
    · exact .inl ((fetch_outOfRangeAccess_iff s).mpr ⟨hpolicy, row, hrow, hlen⟩)
    · cases hfetch : fetch s with
      | error r =>
        rcases fetch_error s r hfetch with ⟨hnone, -⟩ | ⟨-, -, rfl, -⟩
        · rw [hrow] at hnone
          cases hnone
        · exact .inl rfl
      | ok i =>
        obtain rfl := (eq_jmpIndirect_top_iff s i hfetch).mpr ⟨(opcode_of_entry hrow).symm.trans hop, hptr⟩
        exact .inr ⟨hpolicy, rfl⟩

end Sys2Proof.Proofs

/-! The statements on one mnemonic's instructions: its forms are its rows in the table (R91, R96, R100), an instruction that
transfers no control halts only in the fetch (R146, R337), and one that reads an operand does its effect on it (R148). -/

namespace Sys2Proof.Proofs

open Sys2Proof Sys2Proof.Machine Sys2Proof.Claims

/-! ## The forms of a mnemonic -/

/-- The addressing modes and opcode bytes that the table gives a mnemonic. -/
def formsOf (m : Mnemonic) : List (Mode × Byte) :=
  (rows.filter fun r => r.mnemonic = m).map fun r => (r.mode, r.opcode)

theorem mem_formsOf_iff (m : Mnemonic) (f : Mode × Byte) :
    f ∈ formsOf m ↔ ∃ r ∈ rows, r.mnemonic = m ∧ (r.mode, r.opcode) = f := by
  simp [formsOf, and_assoc]

/-- A mnemonic has the forms of its rows, in any order: every instruction has a row, every row an instruction (R102). -/
theorem hasForms_of_perm {m : Mnemonic} {forms : List (Mode × Byte)} (h : (formsOf m).Perm forms) :
    HasForms m forms := by
  constructor
  · rintro i rfl
    obtain ⟨r, hr, hmnemonic, hmode, -⟩ := tableRow_instr i
    obtain ⟨hmem, hop⟩ := tableRow_some _ _ hr
    exact h.mem_iff.mp ((mem_formsOf_iff _ _).mpr ⟨r, hmem, hmnemonic, by rw [hmode, hop]⟩)
  · intro f hf
    obtain ⟨r, hmem, rfl, rfl⟩ := (mem_formsOf_iff m f).mp (h.mem_iff.mpr hf)
    obtain ⟨i, -, hop, hmnemonic, hoperand⟩ := row_assemble r hmem r.mode.sample (mode_sample r.mode)
    exact ⟨i, hmnemonic, by rw [Instr.mode, hoperand, mode_sample, hop]⟩

/-! ## The halts of a mnemonic -/

/-- A fetch on a mnemonic's opcode byte gives an instruction of the mnemonic. -/
theorem mnemonic_of_fetch {s : State} {m : Mnemonic} {i : Instr} (hs : Fetches s m) (h : fetch s = .ok i) :
    i.mnemonic = m := by
  obtain ⟨-, row, hrow, rfl⟩ := hs
  obtain ⟨row', hrow', hmnemonic, -⟩ := fetch_ok s i h
  obtain rfl : row = row' := Option.some.inj (hrow.symm.trans hrow')
  exact hmnemonic.symm

/-- A step on a mnemonic is a raise of Resolve (R146), or it runs an instruction of the mnemonic. -/
theorem step_of_fetches {s t : State} {m : Mnemonic} (hs : Fetches s m) (hstep : step s = .next t) :
    (∃ r, ofResolve s r ∧ fetch s = .error r ∧ t = s.raise r) ∨
      ∃ i : Instr, i.mnemonic = m ∧ fetch s = .ok i ∧ exec i s = .next t := by
  rcases step_cases s hs.1 with ⟨r, hfetch, h⟩ | ⟨i, hfetch, h⟩ <;> rw [hstep] at h
  · refine .inl ⟨r, ?_, hfetch, by cases h; rfl⟩
    obtain ⟨-, row, hrow, -⟩ := hs
    rcases fetch_error s r hfetch with ⟨hnone, -⟩ | ⟨-, -, hr, hpolicy, -⟩
    · rw [hrow] at hnone
      cases hnone
    · exact ⟨hr, hpolicy⟩
  · exact .inr ⟨i, mnemonic_of_fetch hs hfetch, hfetch, h.symm⟩

/-- An instruction that transfers no control does not halt. -/
theorem exec_keeps_phase (i : Instr) (s t : State) (hc : ¬ Controls i) (hx : exec i s = .next t) :
    t.phase = s.phase := by
  obtain ⟨t', hx', -, -, -, hphase⟩ := exec_summary i s
  rw [hx] at hx'
  cases hx'
  rcases hphase with hphase | ⟨hbrk, -⟩ | ⟨hjmp, -⟩ | ⟨hbranch, -⟩
  · exact hphase
  · exact absurd (.inr (.inr (by rw [shape_eq, hbrk]; rfl))) hc
  · exact absurd (.inr (.inl (by rw [shape_eq, hjmp]; rfl))) hc
  · exact absurd (.inl hbranch) hc

/-- A mnemonic whose instructions transfer no control raises only what Resolve does. -/
theorem raisesOnly_ofResolve {m : Mnemonic} (hc : ∀ i : Instr, i.mnemonic = m → ¬ Controls i) :
    RaisesOnly m ofResolve := by
  intro s t r hs hstep hhalt
  rcases step_of_fetches hs hstep with ⟨r', hr', -, rfl⟩ | ⟨i, hm, -, hx⟩
  · cases hhalt
    exact hr'
  · rw [exec_keeps_phase i s t (hc i hm) hx, hs.1] at hhalt
    cases hhalt

/-! ## The effect of a mnemonic that reads an operand -/

/-- An operand of immediate mode is a literal (R134). -/
theorem exists_immediate_of_mode (o : Operand) (h : o.mode = .immediate) : ∃ imm, o = .immediate imm := by
  cases o
  case immediate imm => exact ⟨imm, rfl⟩
  all_goals cases h

/-- Outside immediate mode the data operand is the byte at the effective address (R148). -/
theorem operandByte_of_ne_immediate (o : Operand) (s : State) (h : o.mode ≠ .immediate) :
    operandByte o s = (effectiveAddress o s).map s.mem.read := by
  cases o
  case immediate => exact absurd rfl h
  all_goals
    simp only [operandByte]
    split <;> rename_i he <;> rw [he] <;> rfl

/-- The data operand of the statements is the byte that the handlers read. -/
theorem dataOperand_iff (i : Instr) (s : State) (M : Byte) :
    DataOperand i s M ↔ operandByte i.operand s = .ok M := by
  unfold DataOperand
  rw [Instr.mode]
  by_cases h : i.operand.mode = .immediate
  · obtain ⟨imm, himm⟩ := exists_immediate_of_mode i.operand h
    simp [himm, Operand.mode, operandByte, eq_comm]
  · have hne : ∀ imm, i.operand ≠ .immediate imm := fun imm himm => h (by rw [himm]; rfl)
    rw [operandByte_of_ne_immediate _ _ h]
    cases effectiveAddress i.operand s <;> simp [hne, h, Except.map, eq_comm]

/-- The address behind an instruction, in numbers, where it lies inside the address space. -/
theorem nextPc_advance (i : Instr) (s : State) : NextPc i s (s.pc + BitVec.ofNat 16 i.length) := by
  intro h
  rw [BitVec.toNat_add, BitVec.toNat_ofNat]
  omega

/-- Reading an operand transfers no control. -/
theorem not_controls_of_reads (i : Instr) (h : i.shape = .reads) : ¬ Controls i := by
  simp [Controls, h]

/-- An instruction that reads an operand has one, and does its effect on it. -/
theorem exec_of_reads (i : Instr) (s : State) (h : i.shape = .reads) :
    ∃ M ea, DataOperand i s M ∧
      exec i s = .next ((effect i M ea s).setPc (s.pc + BitVec.ofNat 16 i.length)) := by
  obtain ⟨M, ea, ho⟩ := exists_operands i s
  exact ⟨M, ea, (dataOperand_iff i s M).mpr (ho.data h), exec_eq_effect i s M ea ho (not_controls_of_reads i h)⟩

/-- A statement `ReadsOperand` holds when the table lists the forms and the effect on the operand is the stated one. -/
theorem readsOperand_of_effect {m : Mnemonic} {forms : List (Mode × Byte)} {f : State → Byte → Word → State}
    (hforms : (formsOf m).Perm forms) (hm : m.shape = .reads)
    (hf : ∀ (i : Instr) (s : State) (M : Byte) (ea pc' : Word), i.mnemonic = m → (effect i M ea s).setPc pc' = f s M pc') :
    ReadsOperand m forms f := by
  have hreads (i : Instr) (hi : i.mnemonic = m) : i.shape = .reads := by rw [shape_eq, hi, hm]
  refine ⟨hasForms_of_perm hforms, raisesOnly_ofResolve fun i hi => not_controls_of_reads i (hreads i hi),
    fun i s hi => ?_⟩
  obtain ⟨M, ea, hdata, hx⟩ := exec_of_reads i s (hreads i hi)
  exact ⟨M, _, hdata, nextPc_advance i s, by rw [hx, hf i s M ea _ hi]⟩

/-- What such a statement says of a given data operand and next state. -/
theorem eq_of_readsOperand {m : Mnemonic} {forms : List (Mode × Byte)} {f : State → Byte → Word → State}
    (h : ReadsOperand m forms f) {i : Instr} {s t : State} {M : Byte} (hi : i.mnemonic = m)
    (hM : DataOperand i s M) (hx : exec i s = .next t) : ∃ pc', t = f s M pc' := by
  obtain ⟨-, -, heffect⟩ := h
  obtain ⟨M', pc', hM', -, hx'⟩ := heffect i s hi
  rw [dataOperand_iff] at hM hM'
  rw [hM] at hM'
  cases hM'
  rw [hx] at hx'
  cases hx'
  exact ⟨pc', rfl⟩

end Sys2Proof.Proofs

/-! ADC and SBC (41_adc_sbc.md): the adder on the operand or its complement, and the three laws of R163. -/

namespace Sys2Proof.Proofs

open Sys2Proof Sys2Proof.Machine Sys2Proof.Claims

theorem bit_eq_toNat (c : Bool) : bit c = c.toNat := by
  cases c <;> rfl

/-- The adder of the model is the adder of the statements. -/
theorem addWithCarry_setPc (M : Byte) (s : State) (pc' : Word) : (addWithCarry M s).setPc pc' = adds s M pc' := by
  simp only [adds, addWithCarry, nz]
  cases hc : s.p.c <;> simp [adder, setNZ_eq, State.loadA, State.setA, State.setP, State.setPc]

@[simp] theorem adds_a (s : State) (m : Byte) (pc' : Word) : (adds s m pc').a = (adder s.a m s.p.c).sum := by
  rw [← addWithCarry_setPc]
  rfl

@[simp] theorem adds_c (s : State) (m : Byte) (pc' : Word) : (adds s m pc').p.c = (adder s.a m s.p.c).carry := by
  rw [← addWithCarry_setPc]
  rfl

@[simp] theorem adds_v (s : State) (m : Byte) (pc' : Word) : (adds s m pc').p.v = (adder s.a m s.p.c).overflow := by
  rw [← addWithCarry_setPc]
  rfl

/-- Settles O13: ADC's effect is the adder on the operand. -/
theorem adcAddsWithCarry : Obligations.AdcAddsWithCarry := by
  unfold Obligations.AdcAddsWithCarry
  refine readsOperand_of_effect (by decide) rfl fun i s M ea pc' hi => ?_
  simp only [effect, hi]
  exact addWithCarry_setPc M s pc'

/-- Settles O14: SBC's effect is the adder on the operand's complement, which is 0xFF - M. -/
theorem sbcAddsTheComplement : Obligations.SbcAddsTheComplement := by
  unfold Obligations.SbcAddsTheComplement
  refine readsOperand_of_effect (by decide) rfl fun i s M ea pc' hi => ?_
  simp only [effect, hi]
  rw [subtractWithCarry, addWithCarry_setPc, complement_eq]

/-! ## The laws of R163 -/

/-- The complement of a byte as a signed number (R9). -/
theorem complement_toInt (m : Byte) : (~~~m).toInt = -m.toInt - 1 := by
  have := m.isLt
  rw [BitVec.toInt_eq_toNat_cond, BitVec.toInt_eq_toNat_cond, BitVec.toNat_not]
  split <;> split <;> omega

/-- The adder on the complement subtracts the operand and the borrow; no carry out is a borrow. -/
theorem adder_complement_sum (a m : Byte) (c : Bool) :
    ((adder a (~~~m) c).sum.toNat : Int) = ((a.toNat : Int) - m.toNat - (1 - c.toNat)) % 256 ∧
      ((adder a (~~~m) c).carry = true ↔ 0 ≤ (a.toNat : Int) - m.toNat - (1 - c.toNat)) := by
  obtain ⟨hsum, hcarry⟩ := adder_sum a (~~~m) c
  have hm := m.isLt
  rw [hsum, hcarry, BitVec.toNat_not]
  omega

/-- The adder's overflow on the complement says that the exact signed difference is out of range. -/
theorem adder_complement_overflow (a m : Byte) (c : Bool) :
    (adder a (~~~m) c).overflow = true ↔
      a.toInt - m.toInt - (1 - c.toNat) < -128 ∨ 127 < a.toInt - m.toInt - (1 - c.toNat) := by
  have hdiff : a.toInt + (~~~m).toInt + c.toInt = a.toInt - m.toInt - (1 - c.toNat) := by
    rw [complement_toInt]
    cases c <;> simp <;> omega
  simp only [adder, hdiff, decide_eq_true_eq]

/-- Settles O15: the state after ADC or SBC is the adder's, so the laws are those of the adder on the operand and on its
complement. -/
theorem adderLaws : Obligations.AdderLaws := by
  unfold Obligations.AdderLaws
  constructor
  · intro i s t M hi hM hx
    obtain ⟨pc', rfl⟩ := eq_of_readsOperand adcAddsWithCarry hi hM hx
    obtain ⟨hsum, hcarry⟩ := adder_sum s.a M s.p.c
    simp only [adds_a, adds_c, adds_v, bit_eq_toNat]
    exact ⟨hsum, hcarry, adder_overflow s.a M s.p.c⟩
  · intro i s t M hi hM hx
    obtain ⟨pc', rfl⟩ := eq_of_readsOperand sbcAddsTheComplement hi hM hx
    obtain ⟨hsum, hcarry⟩ := adder_complement_sum s.a M s.p.c
    simp only [← complement_eq, adds_a, adds_c, adds_v, bit_eq_toNat]
    exact ⟨hsum, hcarry, adder_overflow s.a (~~~M) s.p.c, adder_complement_overflow s.a M s.p.c⟩

end Sys2Proof.Proofs

/-! Shifts and rotates (42_shift_rotate.md): each does the shift by its operation in numbers, on A or on memory, and nine
rotations of A and C are none, because a rotation turns a ring of nine bits by one place. -/

namespace Sys2Proof.Proofs

open Sys2Proof Sys2Proof.Machine Sys2Proof.Claims

/-! ## The frame of R180 -/

/-- A shift in accumulator mode writes A and the flags (R180). -/
theorem shiftEffect_accumulator (op : Byte → Bool → Byte × Bool) (ea pc' : Word) (s : State) :
    (shiftEffect op .accumulator ea s).setPc pc' =
      { s with a := (op s.a s.p.c).1, p := { nz s.p (op s.a s.p.c).1 with c := (op s.a s.p.c).2 }, pc := pc' } := by
  simp [shiftEffect, shifted, setNZ_eq, nz, State.setPc]

/-- A shift outside accumulator mode writes the byte at its address and the flags (R180). -/
theorem shiftEffect_memory (op : Byte → Bool → Byte × Bool) (o : Operand) (ea pc' : Word) (s : State)
    (ho : o ≠ .accumulator) :
    (shiftEffect op o ea s).setPc pc' =
      { s with mem := s.mem.write ea (op (s.mem.read ea) s.p.c).1
               p := { nz s.p (op (s.mem.read ea) s.p.c).1 with c := (op (s.mem.read ea) s.p.c).2 }
               pc := pc' } := by
  simp [shiftEffect, shifted, setNZ_eq, nz, State.setPc, ho]

/-- A shift transfers no control. -/
theorem not_controls_of_modifies (i : Instr) (h : i.shape = .modifies) : ¬ Controls i := by
  simp [Controls, h]

/-- A statement `Shifts` holds when the table lists the forms and the effect is the shift by the stated operation. -/
theorem shifts_of_effect {m : Mnemonic} {forms : List (Mode × Byte)} {op : Byte → Bool → Byte × Bool}
    (hforms : (formsOf m).Perm forms) (hm : m.shape = .modifies)
    (heffect : ∀ (i : Instr) (s : State) (M : Byte) (ea : Word), i.mnemonic = m →
      effect i M ea s = shiftEffect op i.operand ea s) :
    Shifts m forms op := by
  have hmodifies (i : Instr) (hi : i.mnemonic = m) : i.shape = .modifies := by rw [shape_eq, hi, hm]
  refine ⟨hasForms_of_perm hforms,
    raisesOnly_ofResolve fun i hi => not_controls_of_modifies i (hmodifies i hi), fun i s hi => ?_⟩
  obtain ⟨M, ea, ho⟩ := exists_operands i s
  have hx := exec_eq_effect i s M ea ho (not_controls_of_modifies i (hmodifies i hi))
  rw [heffect i s M ea hi] at hx
  rw [Instr.mode, ne_eq, mode_eq_accumulator_iff]
  constructor
  · intro hacc
    rw [hacc, shiftEffect_accumulator] at hx
    exact ⟨_, nextPc_advance i s, hx⟩
  · intro hacc
    rw [shiftEffect_memory _ _ _ _ _ hacc] at hx
    exact ⟨ea, _, _, ho.modified (hmodifies i hi) hacc, nextPc_advance i s, hx, Memory.read_write_same _ _ _,
      fun b hb => Memory.read_write_other _ _ _ _ hb⟩

/-! ## The shifters in numbers -/

/-- ASL's operation in numbers (R181). -/
theorem shiftLeft_eq_double : shiftLeft = fun v _ => (BitVec.ofNat 8 (2 * v.toNat), v.getLsbD 7) := by
  funext v cin
  rw [shiftLeft, shiftLeft_eq, BitVec.msb_eq_getLsbD_last]

/-- LSR's operation in numbers (R182). -/
theorem shiftRight_eq_half : shiftRight = fun v _ => (BitVec.ofNat 8 (v.toNat / 2), v.getLsbD 0) := by
  funext v cin
  rw [shiftRight, shiftRight_eq]

/-- A carry put into bit `k`, where that bit is free, is added. -/
theorem or_carry_eq_add (x : Byte) (k : Nat) (cin : Bool) (hfree : x.getLsbD k = false) :
    (x ||| if cin then BitVec.twoPow 8 k else 0x00) = BitVec.ofNat 8 (x.toNat + 2 ^ k * bit cin) := by
  cases cin
  · simp [bit]
  · rw [if_pos rfl, ← BitVec.add_eq_or_of_and_eq_zero _ _ (by simp [BitVec.and_twoPow, hfree])]
    apply BitVec.eq_of_toNat_eq
    simp [bit]

/-- The bits of a byte after a carry was put into bit `k`. -/
theorem getLsbD_or_carry (x : Byte) (k : Nat) (cin : Bool) (i : Nat) :
    (x ||| if cin then BitVec.twoPow 8 k else 0x00).getLsbD i =
      (x.getLsbD i || (cin && (decide (k < 8) && decide (k = i)))) := by
  cases cin <;> simp [BitVec.getLsbD_twoPow]

/-- ROL's operation in numbers: the carry comes into the free bit 0, so it is added (R183). -/
theorem rotateLeft_eq_double_add :
    rotateLeft = fun v cin => (BitVec.ofNat 8 (2 * v.toNat + bit cin), v.getLsbD 7) := by
  funext v cin
  refine Prod.ext ((or_carry_eq_add (v <<< 1) 0 cin (by simp)).trans ?_) (BitVec.msb_eq_getLsbD_last v)
  apply BitVec.eq_of_toNat_eq
  rw [shiftLeft_eq]
  simp

/-- ROR's operation in numbers: the carry comes into the free bit 7, so it is added (R184). -/
theorem rotateRight_eq_half_add :
    rotateRight = fun v cin => (BitVec.ofNat 8 (v.toNat / 2 + 128 * bit cin), v.getLsbD 0) := by
  funext v cin
  refine Prod.ext ((or_carry_eq_add (v >>> 1) 7 cin (by simp)).trans ?_) rfl
  apply BitVec.eq_of_toNat_eq
  rw [shiftRight_eq]
  simp

/-! ## The four operations -/

/-- Settles O16: ASL's effect is the shift by its operation, which doubles the byte. -/
theorem aslShiftsLeft : Obligations.AslShiftsLeft := by
  unfold Obligations.AslShiftsLeft
  rw [← shiftLeft_eq_double]
  exact shifts_of_effect (by decide) rfl fun i s M ea hi => by simp only [effect, hi]

/-- Settles O17: LSR's effect is the shift by its operation, which halves the byte. -/
theorem lsrShiftsRight : Obligations.LsrShiftsRight := by
  unfold Obligations.LsrShiftsRight
  rw [← shiftRight_eq_half]
  exact shifts_of_effect (by decide) rfl fun i s M ea hi => by simp only [effect, hi]

/-- Settles O18: ROL's effect is the shift by its operation, which doubles the byte and adds the carry. -/
theorem rolRotatesLeftThroughCarry : Obligations.RolRotatesLeftThroughCarry := by
  unfold Obligations.RolRotatesLeftThroughCarry
  rw [← rotateLeft_eq_double_add]
  exact shifts_of_effect (by decide) rfl fun i s M ea hi => by simp only [effect, hi]

/-- Settles O19: ROR's effect is the shift by its operation, which halves the byte and adds the carry as bit 7. -/
theorem rorRotatesRightThroughCarry : Obligations.RorRotatesRightThroughCarry := by
  unfold Obligations.RorRotatesRightThroughCarry
  rw [← rotateRight_eq_half_add]
  exact shifts_of_effect (by decide) rfl fun i s M ea hi => by simp only [effect, hi]

/-! ## The ring of nine bits (R183, R184) -/

/-- The bits of ROL's result: each from the place below, the lowest from the carry (R183). -/
theorem getLsbD_rotateLeft (v : Byte) (cin : Bool) (i : Nat) (hi : i < 8) :
    (rotateLeft v cin).1.getLsbD i = if i = 0 then cin else v.getLsbD (i - 1) := by
  refine (getLsbD_or_carry (v <<< 1) 0 cin i).trans ?_
  cases i with
  | zero => simp
  | succ i =>
    rw [BitVec.getLsbD_shiftLeft]
    simp [hi]

/-- The bits of ROR's result: each from the place above, the highest from the carry (R184). -/
theorem getLsbD_rotateRight (v : Byte) (cin : Bool) (i : Nat) :
    (rotateRight v cin).1.getLsbD i = if i = 7 then cin else v.getLsbD (i + 1) := by
  refine (getLsbD_or_carry (v >>> 1) 7 cin i).trans ?_
  rw [BitVec.getLsbD_ushiftRight, Nat.add_comm]
  by_cases h : i = 7
  · simp [h]
  · simp [h, Ne.symm h]

/-- The ring of nine bits that a rotation turns: the eight of the byte, then the carry (R183, R184). -/
def ringBit (p : Byte × Bool) (k : Fin 9) : Bool := (BitVec.cons p.2 p.1).getLsbD k

/-- The ring determines the byte and the carry. -/
theorem ringBit_injective : Function.Injective ringBit := by
  intro p q h
  have hbit (k : Fin 9) := congrFun h k
  simp only [ringBit, BitVec.getLsbD_cons] at hbit
  refine Prod.ext (BitVec.eq_of_getLsbD_eq fun i hi => ?_) (hbit 8)
  simpa [hi.ne] using hbit ⟨i, by omega⟩

/-- ROL moves each bit of the ring one place on, the carry into bit 0 (R183). -/
theorem ringBit_rotateLeft (p : Byte × Bool) (k : Fin 9) :
    ringBit (Function.uncurry rotateLeft p) (k + 1) = ringBit p k := by
  obtain ⟨v, cin⟩ := p
  simp only [ringBit, BitVec.getLsbD_cons, Function.uncurry]
  by_cases hk : k = Fin.last 8
  · subst hk
    exact getLsbD_rotateLeft v cin 0 (by decide)
  · have hlt : k.val < 8 := Fin.val_lt_last hk
    rw [Fin.val_add_one_of_lt (Fin.lt_last_iff_ne_last.mpr hk), if_neg hlt.ne]
    split
    · next h =>
      rw [show k.val = 7 by omega]
      exact BitVec.msb_eq_getLsbD_last v
    · rw [getLsbD_rotateLeft _ _ _ (by omega)]
      simp

/-- ROL undoes ROR (R183, R184). -/
theorem rotateLeft_leftInverse_rotateRight :
    Function.LeftInverse (Function.uncurry rotateLeft) (Function.uncurry rotateRight) := by
  rintro ⟨v, cin⟩
  refine Prod.ext (BitVec.eq_of_getLsbD_eq fun i hi => ?_) ?_
  · rw [Function.uncurry, getLsbD_rotateLeft _ _ _ hi]
    cases i with
    | zero => rfl
    | succ i =>
      have hne : i ≠ 7 := by omega
      simp [Function.uncurry, getLsbD_rotateRight, hne]
  · exact (BitVec.msb_eq_getLsbD_last _).trans (getLsbD_rotateRight v cin 7)

/-- `n` executions of ROL move each bit of the ring `n` places on. -/
theorem ringBit_iterate_rotateLeft (n : Nat) (p : Byte × Bool) (k : Fin 9) :
    ringBit ((Function.uncurry rotateLeft)^[n] p) ((· + 1)^[n] k) = ringBit p k := by
  induction n with
  | zero => rfl
  | succ n ih => rw [Function.iterate_succ_apply', Function.iterate_succ_apply', ringBit_rotateLeft, ih]

/-- Nine times ROL is nothing done: nine places on in a ring of nine bits is the place itself (R185). -/
theorem iterate_nine_rotateLeft : (Function.uncurry rotateLeft)^[9] = id := by
  have hplace : ∀ k : Fin 9, (· + 1)^[9] k = k := by decide
  funext p
  refine ringBit_injective (funext fun k => ?_)
  have h := ringBit_iterate_rotateLeft 9 p k
  rwa [hplace] at h

/-- Nine times ROR is nothing done, because nine times ROL undoes it and is nothing done (R185). -/
theorem iterate_nine_rotateRight : (Function.uncurry rotateRight)^[9] = id := by
  have h := rotateLeft_leftInverse_rotateRight.iterate 9
  rw [iterate_nine_rotateLeft] at h
  exact h.id

/-! ## Runs of a rotation (R185) -/

/-- `n` runs of a shift in accumulator mode apply its operation `n` times to A and C, and keep X, Y and memory. -/
theorem repeated_accumulatorForm {i : Instr} {op : Byte → Bool → Byte × Bool}
    (hi : ∀ s, exec i s = accumulatorForm op s) (n : Nat) (s : State) :
    ∃ t, repeated i n s = .next t ∧ (t.a, t.p.c) = (Function.uncurry op)^[n] (s.a, s.p.c) ∧
      t.x = s.x ∧ t.y = s.y ∧ t.mem = s.mem := by
  induction n generalizing s with
  | zero => exact ⟨s, rfl, rfl, rfl, rfl, rfl⟩
  | succ n ih =>
    simp only [repeated, hi, accumulatorForm_eq]
    exact ih _

/-- Nine runs of an operation whose nine applications change nothing give A and C their values back. -/
theorem restored_of_iterate_nine {i : Instr} {op : Byte → Bool → Byte × Bool}
    (hi : ∀ s, exec i s = accumulatorForm op s) (hop : (Function.uncurry op)^[9] = id) (s : State) :
    ∃ t, repeated i 9 s = .next t ∧ t.a = s.a ∧ t.p.c = s.p.c ∧ t.x = s.x ∧ t.y = s.y ∧ t.mem = s.mem := by
  obtain ⟨t, ht, hring, hkeep⟩ := repeated_accumulatorForm hi 9 s
  rw [hop, id, Prod.mk.injEq] at hring
  obtain ⟨ha, hc⟩ := hring
  exact ⟨t, ht, ha, hc, hkeep⟩

/-- Settles O20: nine runs apply ROL's or ROR's operation nine times to A and C, which changes nothing. -/
theorem nineRotationsRestore : Obligations.NineRotationsRestore := by
  unfold Obligations.NineRotationsRestore
  intro s i hi
  rw [List.mem_pair] at hi
  obtain rfl | rfl := hi
  · exact restored_of_iterate_nine (fun _ => rfl) iterate_nine_rotateLeft s
  · exact restored_of_iterate_nine (fun _ => rfl) iterate_nine_rotateRight s

end Sys2Proof.Proofs

/-! Control transfer (43_branch_jump.md): what PC is after a transfer and behind an instruction (R305), a branch in every case
(R202, R203, R204), and the two forms of JMP (R205, R206, R207). -/

namespace Sys2Proof.Proofs

open Sys2Proof Sys2Proof.Machine Sys2Proof.Claims

/-! ## Transfers and the advance (R204, R207, R305) -/

/-- A transfer to the instruction's own address leaves PC behind the instruction. -/
theorem advance_setPc_self (s : State) (n : Nat) :
    s.advance n (s.setPc s.pc) = s.setPc (s.pc + BitVec.ofNat 16 n) :=
  advance_of_pc s (s.setPc s.pc) n rfl

/-- A handler that sets PC to `w` is a jump to `w`, which falls through if `w` is its own address. -/
theorem jumpsTo_of_exec {i : Instr} {s : State} {w : Word} (hx : exec i s = .next (s.advance i.length (s.setPc w))) :
    JumpsTo i s w := by
  constructor
  · intro hne
    rw [hx, advance_of_moved s (s.setPc w) _ hne]
    rfl
  · rintro rfl
    exact ⟨_, nextPc_advance i s, by rw [hx, advance_setPc_self]; rfl⟩

/-! ## Branches (R202, R203, R204) -/

/-- Only branches have a displacement. -/
theorem shape_of_relative {i : Instr} {rel : Byte} (h : i.operand = .relative rel) : i.shape = .branches := by
  cases i
  case bcc | bcs | bpl | bmi | bvc | bvs | bne | beq => rfl
  all_goals cases h

theorem length_of_relative {i : Instr} {rel : Byte} (h : i.operand = .relative rel) : i.length = 2 := by
  rw [Instr.length, Instr.mode, h]
  rfl

/-- The target that the handler computes is that of the statements. -/
theorem branchBase_add_eq_target (rel : Byte) (s : State) : branchBase s + rel.toInt = target rel s := by
  unfold branchBase target
  cases s.cfg.branchBase <;> simp

/-- An integer as a word, in numbers. -/
theorem toNat_ofInt_word (t : Int) : ((BitVec.ofInt 16 t).toNat : Int) = t % 0x10000 := by
  rw [BitVec.toNat_ofInt]
  omega

/-- A target lies less than 2^16 away from its branch, so that it wraps to the branch's own address only by being it. -/
theorem ofInt_target_eq_pc_iff (rel : Byte) (s : State) :
    BitVec.ofInt 16 (target rel s) = s.pc ↔ target rel s = s.pc.toNat := by
  have hdist : -0x10000 < target rel s - s.pc.toNat ∧ target rel s - s.pc.toNat < 0x10000 := by
    have hlow := BitVec.le_toInt rel
    have hhigh := BitVec.toInt_lt (x := rel)
    unfold target
    split <;> omega
  have hword := toNat_ofInt_word (target rel s)
  have hpc := s.pc.isLt
  rw [← BitVec.toNat_inj]
  omega

/-- Everything a branch instruction can do: fall through, transfer to its target, wrapped or not, or raise past the ends. -/
theorem exec_branch_cases {i : Instr} {rel : Byte} (ho : i.operand = .relative rel) (s : State) :
    (writesPc i.mnemonic s.p = false ∧ exec i s = .next (s.setPc (s.pc + BitVec.ofNat 16 i.length))) ∨
    (writesPc i.mnemonic s.p = true ∧
      (0 ≤ target rel s ∧ target rel s ≤ 0xFFFF ∨ s.cfg.branchOverflow = .wrap) ∧
      exec i s = .next (s.advance i.length (s.setPc (BitVec.ofInt 16 (target rel s))))) ∨
    (writesPc i.mnemonic s.p = true ∧ ¬ (0 ≤ target rel s ∧ target rel s ≤ 0xFFFF) ∧
      s.cfg.branchOverflow = .fatal ∧ exec i s = .next (s.raise (.branchOverflow s.pc (target rel s)))) := by
  rw [exec_branch i s (shape_of_relative ho), ho, length_of_relative ho, ← branchBase_add_eq_target]
  exact branchForm_cases rel (writesPc i.mnemonic s.p) s

/-- A branch instruction does what `Branch` says, on the flag it asks for. -/
theorem branchEffect {i : Instr} {rel : Byte} (ho : i.operand = .relative rel) (s : State) :
    BranchEffect i rel (writesPc i.mnemonic s.p) s := by
  unfold BranchEffect
  rcases exec_branch_cases ho s with ⟨hc, hx⟩ | ⟨hc, hgoes, hx⟩ | ⟨hc, houtside, hfatal, hx⟩
  · rw [if_pos hc]
    exact ⟨_, nextPc_advance i s, hx⟩
  · obtain ⟨hmoves, hself⟩ := jumpsTo_of_exec hx
    rw [Ne, ofInt_target_eq_pc_iff] at hmoves
    rw [ofInt_target_eq_pc_iff] at hself
    have hword := toNat_ofInt_word (target rel s)
    rw [if_neg (by simp [hc])]
    split
    next hinside =>
      split
      next heq => exact hself heq
      next hne => exact ⟨_, by omega, hmoves hne⟩
    next houtside =>
      have hne : target rel s ≠ s.pc.toNat := by
        have := s.pc.isLt
        omega
      rw [if_neg (by simp [hgoes.resolve_left houtside])]
      exact ⟨_, hword, hmoves hne⟩
  · rw [if_neg (by simp [hc]), if_neg houtside, if_pos hfatal]
    exact hx

/-- A branch instruction halts only past the ends of the address space, under `BRANCH_OVERFLOW = Fatal`, when taken. -/
theorem halt_of_exec_branch {i : Instr} {rel : Byte} {s t : State} {r : HaltReason} (ho : i.operand = .relative rel)
    (hs : s.phase = .running) (hx : exec i s = .next t) (hhalt : t.phase = .halted r) :
    writesPc i.mnemonic s.p = true ∧ s.cfg.branchOverflow = .fatal ∧
      ∃ x : Int, r = .branchOverflow s.pc x ∧ (x < 0 ∨ 0xFFFF < x) := by
  rcases exec_branch_cases ho s with ⟨-, hx'⟩ | ⟨-, -, hx'⟩ | ⟨hc, houtside, hfatal, hx'⟩ <;> rw [hx'] at hx <;> cases hx
  · simp [hs] at hhalt
  · simp [hs] at hhalt
  · cases hhalt
    exact ⟨hc, hfatal, _, rfl, by omega⟩

/-- The fetch of a two-byte instruction raises `OutOfRangeAccess` only at 0xFFFF (R131). -/
theorem pc_of_two_bytes_past_top {s : State} (h : 0x10000 < s.pc.toNat + 2) : s.pc = 0xFFFF := by
  have := s.pc.isLt
  exact BitVec.eq_of_toNat_eq (by simp; omega)

/-- A mnemonic whose one form is relative raises what a branch may (R200). -/
theorem raisesOnly_ofBranch {m : Mnemonic} {op : Byte} (hforms : formsOf m = [(.relative, op)])
    (hm : m.shape = .branches) : RaisesOnly m (ofBranch (writesPc m)) := by
  intro s t r hs hstep hhalt
  rcases step_of_fetches hs hstep with ⟨r', hr', hfetch, rfl⟩ | ⟨i, rfl, -, hx⟩
  · cases hhalt
    refine .inl ⟨hr', ?_⟩
    obtain ⟨-, row, hrow, hmnemonic⟩ := hs
    obtain ⟨rfl, hpolicy⟩ := hr'
    obtain ⟨-, row', hrow', hlen⟩ := (fetch_outOfRangeAccess_iff s).mp hfetch
    obtain rfl : row = row' := Option.some.inj (hrow.symm.trans hrow')
    have hform := (mem_formsOf_iff m _).mpr ⟨row, (tableRow_some _ _ (entry_some _ _ _ hrow).1).1, hmnemonic, rfl⟩
    obtain ⟨hmode, -⟩ : row.mode = .relative ∧ row.opcode = op := by simpa [hforms] using hform
    rw [Row.length, hmode] at hlen
    exact pc_of_two_bytes_past_top hlen
  · obtain ⟨rel, ho⟩ := branches_operand i hm
    exact .inr (halt_of_exec_branch ho hs.1 hx hhalt)

/-- A statement `Branches` holds of a branch mnemonic with one form and the flag that it asks for. -/
theorem branches_of_form {m : Mnemonic} {op : Byte} (hforms : formsOf m = [(.relative, op)])
    (hm : m.shape = .branches) : Branches m op (writesPc m) := by
  refine ⟨hasForms_of_perm (.of_eq hforms), raisesOnly_ofBranch hforms hm, ?_⟩
  rintro i s rfl
  obtain ⟨rel, ho⟩ := branches_operand i hm
  exact ⟨rel, ho, branchEffect ho s⟩

/-- Settles O21: BCC is a branch, of one form, that is taken if C = 0. -/
theorem bccBranchesOnCarryClear : Obligations.BccBranchesOnCarryClear := by
  unfold Obligations.BccBranchesOnCarryClear
  exact branches_of_form (m := .bcc) rfl rfl

/-- Settles O22: BCS is a branch, of one form, that is taken if C = 1. -/
theorem bcsBranchesOnCarrySet : Obligations.BcsBranchesOnCarrySet := by
  unfold Obligations.BcsBranchesOnCarrySet
  exact branches_of_form (m := .bcs) rfl rfl

/-! ## JMP (R205, R206, R207) -/

/-- A jump goes to its effective address. -/
theorem exec_jump_of_address {i : Instr} {s : State} {ea : Word} (hs : i.shape = .jumps)
    (h : effectiveAddress i.operand s = .ok ea) : exec i s = .next (s.advance i.length (s.setPc ea)) := by
  rw [exec_jump i s hs, jumpForm, h]
  rfl

/-- A jump without an effective address is the raise of the address computation. -/
theorem exec_jump_of_raise {i : Instr} {s : State} {r : HaltReason} (hs : i.shape = .jumps)
    (h : effectiveAddress i.operand s = .error r) : exec i s = .next (s.raise r) := by
  rw [exec_jump i s hs, jumpForm, h]
  rfl

theorem length_of_jumps {i : Instr} (h : i.shape = .jumps) : i.length = 3 := by
  cases i
  case jmpAbsolute | jmpIndirect => rfl
  all_goals cases h

theorem mnemonic_of_jumps {i : Instr} (h : i.shape = .jumps) : i.mnemonic = .jmp := by
  cases i
  case jmpAbsolute | jmpIndirect => rfl
  all_goals cases h

/-- JMP raises only what Resolve does: an operand byte or the pointer's high byte past the top (R206, R332). -/
theorem raisesOnly_ofResolve_jmp : RaisesOnly .jmp ofResolve := by
  intro s t r hs hstep hhalt
  rcases step_of_fetches hs hstep with ⟨r', hr', -, rfl⟩ | ⟨i, hm, -, hx⟩
  · cases hhalt
    exact hr'
  · obtain ⟨t', hx', -, -, -, hphase⟩ := exec_summary i s
    rw [hx] at hx'
    cases hx'
    rcases hphase with hphase | ⟨hbrk, -⟩ | ⟨-, -, hpolicy, rfl⟩ | ⟨hbranch, -⟩
    · rw [hphase, hs.1] at hhalt
      cases hhalt
    · simp [hm] at hbrk
    · cases hhalt
      exact ⟨rfl, hpolicy⟩
    · rw [shape_eq, hm] at hbranch
      cases hbranch

/-- A running machine's step leaves the machine running or halted (R311). -/
theorem StepOutcome.running_or_halted {s t : State} (h : StepOutcome s t) :
    t.phase = .running ∨ ∃ r, t.phase = .halted r := by
  rcases h.phase with hrunning | ⟨-, rfl⟩ | ⟨r, -, rfl⟩
  · exact .inl hrunning
  · exact .inr ⟨_, rfl⟩
  · exact .inr ⟨r, rfl⟩

/-- The table entry of an instruction that the configuration holds has the instruction's columns (R91). -/
theorem exists_entry_of_inTable {cfg : Config} {i : Instr} (h : inTable cfg i) :
    ∃ row, cfg.entry i.opcode = some row ∧ row.opcode = i.opcode ∧ row.mnemonic = i.mnemonic ∧
      row.length = i.length := by
  obtain ⟨row, hrow⟩ := Option.isSome_iff_exists.mp ((entry_opcode_isSome_iff cfg i).mpr h)
  obtain ⟨hop, hmnemonic, -, hlen⟩ := tableRow_opcode i row (entry_some cfg _ row hrow).1
  exact ⟨row, hrow, hop, hmnemonic, hlen.trans (encode_length i)⟩

/-- A statement `JumpRaises` holds of a form of JMP when its cause is the condition of `OutOfRangeAccess` (R332). -/
theorem jumpRaises_of_cause {i : Instr} {cause : State → Prop} (hs : i.shape = .jumps)
    (hcause : ∀ s, cause s ↔ 0xFFFE ≤ s.pc.toNat ∨
      (i.opcode = 0x6C ∧ s.mem.read (s.pc + 1) = 0xFF ∧ s.mem.read (s.pc + 2) = 0xFF)) : JumpRaises i cause := by
  intro s hrunning hop hheld
  obtain ⟨row, hrow, hrowop, hmnemonic, hlen⟩ := exists_entry_of_inTable hheld
  rw [mnemonic_of_jumps hs] at hmnemonic
  rw [length_of_jumps hs] at hlen
  rw [← hop] at hrow
  obtain ⟨hiff, hraise⟩ := outOfRangeAccessExactlyWhen s hrunning
  have hhalts : (∃ t a, step s = .next t ∧ t.phase = .halted (.outOfRangeAccess a)) ↔
      cause s ∧ s.cfg.topPolicy = .fault := by
    have hpast : 0x10000 < s.pc.toNat + 3 ↔ 0xFFFE ≤ s.pc.toNat := by omega
    rw [hiff]
    simp [hrow, hcause, hlen, hrowop, hpast, and_comm]
  constructor
  · intro h
    obtain ⟨t, a, hstep, hhalt⟩ := hhalts.mpr h
    rw [hstep, hraise t a hstep hhalt]
  · intro h
    obtain ⟨t, hstep, hout⟩ := step_outcome s hrunning
    refine ⟨t, hstep, hout.running_or_halted.resolve_right ?_⟩
    rintro ⟨r, hhalt⟩
    obtain ⟨rfl, -⟩ := raisesOnly_ofResolve_jmp s t r ⟨hrunning, row, hrow, hmnemonic⟩ hstep hhalt
    exact h (hhalts.mp ⟨t, _, hstep, hhalt⟩)

/-- Settles O26: its address is its operand, and only the fetch can raise. -/
theorem jmpAbsoluteSetsPc : Obligations.JmpAbsoluteSetsPc := by
  unfold Obligations.JmpAbsoluteSetsPc
  refine ⟨fun addr => ?_, jumpRaises_of_cause rfl fun s => by simp [Instr.opcode], fun addr s => ?_⟩
  · rw [← lowByte_eq, ← highByte_eq]
    rfl
  · exact jumpsTo_of_exec (exec_jump_of_address rfl rfl)

/-- The address behind 0xFFFF is 0x0000. -/
theorem ite_top_eq_add_one (a : Word) : (if a = 0xFFFF then 0x0000 else a + 1) = a + 1 := by
  split
  next h => subst h; rfl
  next => rfl

/-- Settles O27: its address is the word at its pointer, which raises at 0xFFFF under `Fault`. -/
theorem jmpIndirectSetsPc : Obligations.JmpIndirectSetsPc := by
  unfold Obligations.JmpIndirectSetsPc
  refine ⟨fun ptr => ?_, jumpRaises_of_cause rfl fun s => by simp [Instr.opcode], fun ptr s => ⟨fun h => ?_, ?_⟩⟩
  · rw [← lowByte_eq, ← highByte_eq]
    rfl
  · have hread : s.read16 ptr = .ok (leWord (s.mem.read ptr) (s.mem.read (ptr + 1))) := by
      rw [State.read16, read16_eq _ _ _ h]
    rw [ite_top_eq_add_one]
    exact ⟨_, leWord_toNat _ _, jumpsTo_of_exec (exec_jump_of_address rfl hread)⟩
  · rintro ⟨rfl, hpolicy⟩
    have hread : s.read16 0xFFFF = .error (.outOfRangeAccess 0xFFFF) := by
      rw [State.read16, hpolicy, read16_fault]
    exact exec_jump_of_raise rfl hread

/-! ## The advance in numbers (R305) -/

theorem length_of_breaks {i : Instr} (h : i.shape = .breaks) : i.length = 1 := by
  cases i
  case brk => rfl
  all_goals cases h

/-- An instruction leaves PC behind itself, as a 16-bit sum (R305). -/
def LeavesPcBehind (i : Instr) (s : State) : Prop :=
  ∃ t, exec i s = .next t ∧ t.pc = s.pc + BitVec.ofNat 16 i.length

theorem leavesPcBehind_of_not_writesPc {i : Instr} {s : State} (h : writesPc i.mnemonic s.p = false) :
    LeavesPcBehind i s := by
  by_cases hc : Controls i
  · rcases hc with hs | hs | hs
    · obtain ⟨rel, ho⟩ := branches_operand i hs
      rcases exec_branch_cases ho s with ⟨-, hx⟩ | ⟨htaken, -⟩ | ⟨htaken, -⟩
      · exact ⟨_, hx, rfl⟩
      all_goals simp [htaken] at h
    · simp [mnemonic_of_jumps hs, writesPc] at h
    · refine ⟨_, exec_break i s hs, ?_⟩
      rw [advance_of_pc _ _ _ rfl, length_of_breaks hs]
      rfl
  · obtain ⟨M, ea, ho⟩ := exists_operands i s
    exact ⟨_, exec_eq_effect i s M ea ho hc, rfl⟩

/-- A branch to itself lies inside the address space, and falls through whether it is taken or not (R204). -/
theorem leavesPcBehind_of_branch_to_self {i : Instr} {s : State} {rel : Byte} (ho : i.operand = .relative rel)
    (hself : target rel s = s.pc.toNat) : LeavesPcBehind i s := by
  have hpc := s.pc.isLt
  rcases exec_branch_cases ho s with ⟨-, hx⟩ | ⟨-, -, hx⟩ | ⟨-, houtside, -⟩
  · exact ⟨_, hx, rfl⟩
  · rw [(ofInt_target_eq_pc_iff rel s).mpr hself, advance_setPc_self] at hx
    exact ⟨_, hx, rfl⟩
  · omega

theorem leavesPcBehind_of_jump_to_self {i : Instr} {s : State} (hs : i.shape = .jumps)
    (h : effectiveAddress i.operand s = .ok s.pc) : LeavesPcBehind i s := by
  have hx := exec_jump_of_address hs h
  rw [advance_setPc_self] at hx
  exact ⟨_, hx, rfl⟩

/-- Settles O12: in each of the three cases PC is the sum of the address and the length as 16-bit words. -/
theorem advanceWrapsModulo : Obligations.AdvanceWrapsModulo := by
  unfold Obligations.AdvanceWrapsModulo
  intro i s h
  have hbehind : LeavesPcBehind i s := by
    rcases h with hnone | ⟨rel, ho, hself⟩ | ⟨hm, hself⟩
    · exact leavesPcBehind_of_not_writesPc hnone
    · exact leavesPcBehind_of_branch_to_self ho hself
    · exact leavesPcBehind_of_jump_to_self (by rw [shape_eq, hm]; rfl) hself
  obtain ⟨t, hx, hpc⟩ := hbehind
  exact ⟨t, hx, by rw [hpc, BitVec.toNat_add, BitVec.toNat_ofNat, Nat.add_mod_mod]⟩

end Sys2Proof.Proofs

/-! Loads, stores and transfers (44_load_store_transfer.md): a load does its effect on its operand, a store writes one byte at
its effective address, and a transfer, of one byte with no operand, can neither raise in the fetch nor by itself. -/

namespace Sys2Proof.Proofs

open Sys2Proof Sys2Proof.Machine Sys2Proof.Claims

/-! ## Loads (R220, R221, R222) -/

/-- The flags that the model's `SetNZ` leaves are those of the statements (R160). -/
theorem setNZ_eq_nz (p : Status) (v : Byte) : p.setNZ v = nz p v := setNZ_eq p v

/-- A value placed in A, in the words of the statements. -/
theorem loadA_setPc (s : State) (v : Byte) (pc' : Word) :
    (s.loadA v).setPc pc' = { s with a := v, p := nz s.p v, pc := pc' } := by
  rw [← setNZ_eq_nz]
  rfl

/-- A value placed in X, in the words of the statements. -/
theorem loadX_setPc (s : State) (v : Byte) (pc' : Word) :
    (s.loadX v).setPc pc' = { s with x := v, p := nz s.p v, pc := pc' } := by
  rw [← setNZ_eq_nz]
  rfl

/-- A value placed in Y, in the words of the statements. -/
theorem loadY_setPc (s : State) (v : Byte) (pc' : Word) :
    (s.loadY v).setPc pc' = { s with y := v, p := nz s.p v, pc := pc' } := by
  rw [← setNZ_eq_nz]
  rfl

/-- Settles O28: LDA's effect is its operand placed in A. -/
theorem ldaLoadsA : Obligations.LdaLoadsA := by
  unfold Obligations.LdaLoadsA
  refine readsOperand_of_effect (by decide) rfl fun i s M ea pc' hi => ?_
  simp only [effect, hi]
  exact loadA_setPc s M pc'

/-- Settles O29: LDX's effect is its operand placed in X. -/
theorem ldxLoadsX : Obligations.LdxLoadsX := by
  unfold Obligations.LdxLoadsX
  refine readsOperand_of_effect (by decide) rfl fun i s M ea pc' hi => ?_
  simp only [effect, hi]
  exact loadX_setPc s M pc'

/-- Settles O30: LDY's effect is its operand placed in Y. -/
theorem ldyLoadsY : Obligations.LdyLoadsY := by
  unfold Obligations.LdyLoadsY
  refine readsOperand_of_effect (by decide) rfl fun i s M ea pc' hi => ?_
  simp only [effect, hi]
  exact loadY_setPc s M pc'

/-! ## Stores (R223, R224, R225) -/

/-- Storing a byte transfers no control. -/
theorem not_controls_of_stores (i : Instr) (h : i.shape = .stores) : ¬ Controls i := by
  simp [Controls, h]

/-- A statement `StoresByte` holds when the table lists the forms and the effect is the store of the stated register. -/
theorem storesByte_of_effect {m : Mnemonic} {forms : List (Mode × Byte)} {reg : State → Byte}
    (hforms : (formsOf m).Perm forms) (hm : m.shape = .stores)
    (heffect : ∀ (i : Instr) (s : State) (M : Byte) (ea : Word), i.mnemonic = m → effect i M ea s = s.store ea (reg s)) :
    StoresByte m forms reg := by
  have hstores (i : Instr) (hi : i.mnemonic = m) : i.shape = .stores := by rw [shape_eq, hi, hm]
  refine ⟨hasForms_of_perm hforms,
    raisesOnly_ofResolve fun i hi => not_controls_of_stores i (hstores i hi), fun i s hi => ?_⟩
  obtain ⟨M, ea, ho⟩ := exists_operands i s
  have hx := exec_eq_effect i s M ea ho (not_controls_of_stores i (hstores i hi))
  rw [heffect i s M ea hi] at hx
  exact ⟨ea, _, _, ho.stored (hstores i hi), nextPc_advance i s, hx, Memory.read_write_same _ _ _,
    fun b hb => Memory.read_write_other _ _ _ _ hb⟩

/-- Settles O31: the effect of each of the three is the store of its register. -/
theorem storesWriteTheRegister : Obligations.StoresWriteTheRegister := by
  unfold Obligations.StoresWriteTheRegister
  refine ⟨?sta, ?stx, ?sty⟩
  all_goals exact storesByte_of_effect (by decide) rfl fun i s M ea hi => by simp only [effect, hi]

/-! ## Transfers (R226, R227, R228, R229) -/

/-- An implied instruction transfers no control. -/
theorem not_controls_of_implied (i : Instr) (h : i.shape = .implied) : ¬ Controls i := by
  simp [Controls, h]

/-- The fetch of a mnemonic with one form raises only where the bytes of that form cross the top (R131). -/
theorem past_top_of_fetch_error {s : State} {m : Mnemonic} {mode : Mode} {op : Byte} {r : HaltReason}
    (hforms : formsOf m = [(mode, op)]) (hs : Fetches s m) (h : fetch s = .error r) :
    0x10000 < s.pc.toNat + mode.length := by
  obtain ⟨-, row, hrow, hmnemonic⟩ := hs
  rcases fetch_error s r h with ⟨hnone, -⟩ | ⟨row', hrow', -, -, hlen⟩
  · rw [hrow] at hnone
    cases hnone
  · obtain rfl : row = row' := Option.some.inj (hrow.symm.trans hrow')
    have hform := (mem_formsOf_iff m _).mpr ⟨row, (tableRow_some _ _ (entry_some _ _ _ hrow).1).1, hmnemonic, rfl⟩
    obtain ⟨rfl, -⟩ : row.mode = mode ∧ row.opcode = op := by simpa [hforms] using hform
    exact hlen

/-- An implied mnemonic raises nothing: its one byte is the one at PC, so the fetch crosses no top. -/
theorem raisesOnly_never {m : Mnemonic} {op : Byte} (hforms : formsOf m = [(.noneAddressing, op)])
    (hm : m.shape = .implied) : RaisesOnly m never := by
  intro s t r hs hstep hhalt
  rcases step_of_fetches hs hstep with ⟨r', -, hfetch, -⟩ | ⟨i, hi, -, hx⟩
  · have htop : 0x10000 < s.pc.toNat + 1 := past_top_of_fetch_error hforms hs hfetch
    have hpc := s.pc.isLt
    omega
  · have hc : ¬ Controls i := not_controls_of_implied i (by rw [shape_eq, hi, hm])
    rw [exec_keeps_phase i s t hc hx, hs.1] at hhalt
    cases hhalt

/-- A statement `Implied` holds when the table lists the one form and the effect is the stated one. -/
theorem implied_of_effect {m : Mnemonic} {op : Byte} {f : State → Word → State}
    (hforms : formsOf m = [(.noneAddressing, op)]) (hm : m.shape = .implied)
    (hf : ∀ (i : Instr) (s : State) (M : Byte) (ea pc' : Word), i.mnemonic = m → (effect i M ea s).setPc pc' = f s pc') :
    Implied m op f := by
  refine ⟨hasForms_of_perm (.of_eq hforms), raisesOnly_never hforms hm, fun i s hi => ?_⟩
  have hc : ¬ Controls i := not_controls_of_implied i (by rw [shape_eq, hi, hm])
  obtain ⟨M, ea, ho⟩ := exists_operands i s
  exact ⟨_, nextPc_advance i s, by rw [exec_eq_effect i s M ea ho hc, hf i s M ea _ hi]⟩

/-- Settles O32: the effect of each of the four is its source placed in its destination. -/
theorem transfersMoveAndSetNZ : Obligations.TransfersMoveAndSetNZ := by
  unfold Obligations.TransfersMoveAndSetNZ
  refine ⟨?tax, ?tay, ?txa, ?tya⟩
  all_goals
    refine implied_of_effect rfl rfl fun i s M ea pc' hi => ?_
    simp only [effect, hi]
  case tax => exact loadX_setPc s s.a pc'
  case tay => exact loadY_setPc s s.a pc'
  case txa => exact loadA_setPc s s.x pc'
  case tya => exact loadA_setPc s s.y pc'

end Sys2Proof.Proofs

/-! Flag instructions, INX and BRK (45_flags_inx_brk.md): the implied instructions by their effect, and BRK, whose one byte
is fetched without a raise, and which halts behind itself. -/

namespace Sys2Proof.Proofs

open Sys2Proof Sys2Proof.Machine Sys2Proof.Claims

/-! ## Flag instructions (R250 to R256) -/

/-- Settles O33: the effect of each of the seven is the flags with the one flag set to its value. -/
theorem flagInstructionsWriteOneFlag : Obligations.FlagInstructionsWriteOneFlag := by
  unfold Obligations.FlagInstructionsWriteOneFlag
  refine ⟨?clc, ?sec, ?cli, ?sei, ?cld, ?sed, ?clv⟩
  all_goals
    refine implied_of_effect rfl rfl fun i s M ea pc' hi => ?_
    simp only [effect, hi]
    rfl

/-! ## INX (R257) -/

/-- The 8-bit increment in numbers (R257). -/
theorem increment_eq (v : Byte) : v + 1 = BitVec.ofNat 8 (v.toNat + 1) := by
  rw [BitVec.ofNat_add, BitVec.ofNat_toNat, BitVec.setWidth_eq]
  rfl

/-- Settles O34: the effect of INX is the increment of X placed in X. -/
theorem inxIncrementsX : Obligations.InxIncrementsX := by
  unfold Obligations.InxIncrementsX
  refine implied_of_effect rfl rfl fun i s M ea pc' hi => ?_
  simp only [effect, hi, ← increment_eq]
  exact loadX_setPc s (s.x + 1) pc'

/-! ## BRK (R258, R307) -/

/-- A step on a mnemonic whose one form has no operand runs the instruction: its byte is the one at PC, so the fetch raises
nothing. -/
theorem runs_of_one_byte {s t : State} {m : Mnemonic} {op : Byte} (hforms : formsOf m = [(.noneAddressing, op)])
    (hs : Fetches s m) (hstep : step s = .next t) : ∃ i : Instr, i.mnemonic = m ∧ exec i s = .next t := by
  rcases step_of_fetches hs hstep with ⟨r, -, hfetch, -⟩ | ⟨i, hi, -, hx⟩
  · have htop : 0x10000 < s.pc.toNat + 1 := past_top_of_fetch_error hforms hs hfetch
    have hpc := s.pc.isLt
    omega
  · exact ⟨i, hi, hx⟩

/-- BRK leaves PC behind itself and halts, the advance before the halt (R307, decision D17). -/
theorem exec_of_brk (i : Instr) (s : State) (h : i.mnemonic = .brk) :
    exec i s = .next { s with pc := s.pc + BitVec.ofNat 16 i.length, phase := .halted .brk } := by
  have hbreaks : i.shape = .breaks := by rw [shape_eq, h]; rfl
  rw [exec_break i s hbreaks, length_of_breaks hbreaks, breakForm, advance_of_pc _ _ _ rfl]
  rfl

/-- Settles O35: the fetch of BRK's one byte raises nothing, and BRK advances PC and halts. -/
theorem brkHaltsAfterItsAdvance : Obligations.BrkHaltsAfterItsAdvance := by
  unfold Obligations.BrkHaltsAfterItsAdvance
  have hforms : formsOf .brk = [(.noneAddressing, 0x00)] := rfl
  refine ⟨hasForms_of_perm (.of_eq hforms), fun s t r hs hstep hhalt => ?_,
    fun i s hi => ⟨_, nextPc_advance i s, exec_of_brk i s hi⟩⟩
  obtain ⟨i, hi, hx⟩ := runs_of_one_byte hforms hs hstep
  rw [exec_of_brk i s hi] at hx
  cases hx
  cases hhalt
  rfl

end Sys2Proof.Proofs

/-! The optional groups (48_optional_extensions.md): the logic and compare instructions by their effect on the operand, and
the six branches by their form and the flag that each asks for. -/

namespace Sys2Proof.Proofs

open Sys2Proof Sys2Proof.Machine Sys2Proof.Claims

/-! ## AND, ORA, EOR and BIT (R271 to R274) -/

/-- Settles O36: the effect of each of the three is its combination of A and the operand placed in A. -/
theorem logicCombinesWithA : Obligations.LogicCombinesWithA := by
  unfold Obligations.LogicCombinesWithA
  refine ⟨?and, ?ora, ?eor⟩
  all_goals
    refine readsOperand_of_effect (by decide) rfl fun i s M ea pc' hi => ?_
    simp only [effect, hi]
  case and => exact loadA_setPc s (s.a &&& M) pc'
  case ora => exact loadA_setPc s (s.a ||| M) pc'
  case eor => exact loadA_setPc s (s.a ^^^ M) pc'

/-- The flags that BIT leaves, in the words of the statements. -/
theorem bitTest_setPc (M : Byte) (s : State) (pc' : Word) :
    (bitTest M s).setPc pc' =
      { s with p := { s.p with z := decide (s.a &&& M = 0), n := M.getLsbD 7, v := M.getLsbD 6 }, pc := pc' } := by
  rw [bitTest, BitVec.msb_eq_getLsbD_last, Bool.beq_eq_decide_eq]
  rfl

/-- Settles O37: BIT's effect is its test of the operand. -/
theorem bitTestsTheOperand : Obligations.BitTestsTheOperand := by
  unfold Obligations.BitTestsTheOperand
  refine readsOperand_of_effect (by decide) rfl fun i s M ea pc' hi => ?_
  simp only [effect, hi]
  exact bitTest_setPc M s pc'

/-! ## CMP, CPX and CPY (R275, R276, R277) -/

/-- The model's comparison of a register is that of the statements, whose N is bit 7 of the difference in numbers. -/
theorem compareFlags_setPc (reg : State → Byte) (M : Byte) (s : State) (pc' : Word) :
    (compareFlags (reg s) M s).setPc pc' = compares reg s M pc' := by
  rw [compareFlags, BitVec.msb_eq_getLsbD_last, Bool.beq_eq_decide_eq, difference_eq]
  rfl

/-- Settles O38: the effect of each of the three is the comparison of its register with the operand. -/
theorem comparesSetCZN : Obligations.ComparesSetCZN := by
  unfold Obligations.ComparesSetCZN
  refine ⟨?cmp, ?cpx, ?cpy⟩
  all_goals
    refine readsOperand_of_effect (by decide) rfl fun i s M ea pc' hi => ?_
    simp only [effect, hi]
  case cmp => exact compareFlags_setPc (·.a) M s pc'
  case cpx => exact compareFlags_setPc (·.x) M s pc'
  case cpy => exact compareFlags_setPc (·.y) M s pc'

/-! ## The optional branches (R278 to R283) -/

/-- Settles O23: BPL and BMI are branches, of one form each, taken if N = 0 and if N = 1. -/
theorem bplAndBmiBranchOnNegative : Obligations.BplAndBmiBranchOnNegative := by
  unfold Obligations.BplAndBmiBranchOnNegative
  exact ⟨branches_of_form (m := .bpl) rfl rfl, branches_of_form (m := .bmi) rfl rfl⟩

/-- Settles O24: BVC and BVS are branches, of one form each, taken if V = 0 and if V = 1. -/
theorem bvcAndBvsBranchOnOverflow : Obligations.BvcAndBvsBranchOnOverflow := by
  unfold Obligations.BvcAndBvsBranchOnOverflow
  exact ⟨branches_of_form (m := .bvc) rfl rfl, branches_of_form (m := .bvs) rfl rfl⟩

/-- Settles O25: BNE and BEQ are branches, of one form each, taken if Z = 0 and if Z = 1. -/
theorem bneAndBeqBranchOnZero : Obligations.BneAndBeqBranchOnZero := by
  unfold Obligations.BneAndBeqBranchOnZero
  exact ⟨branches_of_form (m := .bne) rfl rfl, branches_of_form (m := .beq) rfl rfl⟩

end Sys2Proof.Proofs

/-! The engine (49_engine.md): the phase gate, the step that runs the instruction decoded at PC, the placing of an
instruction there, and a run under fuel as the sequence of its steps. -/

namespace Sys2Proof.Proofs

open Sys2Proof Sys2Proof.Machine Sys2Proof.Claims

/-! ## Steps in a row, and the phase gate (R301) -/

@[simp] theorem steps_zero (s : State) : steps 0 s = .next s := rfl

/-- Steps in a row that answer a next state begin with a step that does. -/
theorem steps_succ_eq_next_iff (n : Nat) (s t : State) :
    steps (n + 1) s = .next t ↔ ∃ u, step s = .next u ∧ steps n u = .next t := by
  cases h : step s <;> simp [steps, h]

/-- Settles O10: a halted machine's step answers the same state, and the gate refuses before the first reset. -/
theorem haltedIsTerminalAndNotStartedRefuses : Obligations.HaltedIsTerminalAndNotStartedRefuses := by
  unfold Obligations.HaltedIsTerminalAndNotStartedRefuses
  refine ⟨fun s r hs n => ?_, step_notStarted⟩
  induction n with
  | zero => rfl
  | succ n ih => exact (steps_succ_eq_next_iff n s s).mpr ⟨s, step_halted s r hs, ih⟩

/-! ## The step that runs the decoded instruction (R300, R302, R303, R304) -/

/-- A fetch that gives an instruction gives the one that the bytes at PC decode to. -/
theorem eq_of_fetch_of_decode {s : State} {i j : Instr} {rest : List Byte} (hfetch : fetch s = .ok j)
    (hdecode : decode (bytesAtPc s) = .ok (i, rest)) : j = i := by
  have hbytes := eq_encode_append_of_decode _ _ _ hdecode
  obtain ⟨-, -, -, -, hopcode, -⟩ := fetch_ok s j hfetch
  have hop : j.opcode = i.opcode := hopcode.trans (List.cons.inj hbytes).1
  have hlen : j.length = (encode i).length := by
    rw [encode_length, Instr.length, Instr.length, (opcode_inj j i hop).2]
  refine encode_injective j i ?_
  rw [encode_of_fetch s j hfetch, hbytes, hlen, List.take_left]

/-- The fetch raises nothing where the bytes at PC decode to an instruction that the table holds and that does not cross
the top under `Fault`. -/
theorem fetch_ne_error_of_decode {s : State} {i : Instr} {rest : List Byte} (r : HaltReason)
    (hdecode : decode (bytesAtPc s) = .ok (i, rest)) (hheld : i.wf s.cfg = true)
    (htop : s.cfg.topPolicy = .fault → s.pc.toNat + i.length ≤ 0x10000) : fetch s ≠ .error r := by
  intro hfetch
  have hop : s.mem.read s.pc = i.opcode := (List.cons.inj (eq_encode_append_of_decode _ _ _ hdecode)).1
  obtain ⟨row, hrow, -, -, hlen⟩ := exists_entry_of_inTable ((entry_opcode_isSome_iff s.cfg i).mp hheld)
  rcases fetch_error s r hfetch with ⟨hnone, -⟩ | ⟨row', hrow', -, hpolicy, hpast⟩
  · rw [hop, hrow] at hnone
    cases hnone
  · obtain rfl : row = row' := Option.some.inj (hrow.symm.trans (hop ▸ hrow'))
    have hfits := htop hpolicy
    omega

/-- Settles O5: the fetch raises nothing there, and gives the decoded instruction. -/
theorem stepRunsTheFetchedInstruction : Obligations.StepRunsTheFetchedInstruction := by
  unfold Obligations.StepRunsTheFetchedInstruction
  intro s i rest hs hdecode hheld htop
  rcases step_cases s hs with ⟨r, hfetch, -⟩ | ⟨j, hfetch, hstep⟩
  · exact absurd hfetch (fetch_ne_error_of_decode r hdecode hheld htop)
  · rw [hstep, eq_of_fetch_of_decode hfetch hdecode]

/-! ## The placing of an instruction (log entry 3) -/

@[simp] theorem numberOf_nil : numberOf [] = 0 := rfl

theorem numberOf_lt (bs : List Byte) : numberOf bs < 2 ^ (8 * bs.length) := by
  induction bs with
  | nil => decide
  | cons b bs ih =>
    rw [numberOf, List.length_cons, Nat.mul_succ, Nat.pow_add]
    omega

@[simp] theorem ofNat_numberOf_cons (b : Byte) (bs : List Byte) : BitVec.ofNat 8 (numberOf (b :: bs)) = b := by
  apply BitVec.eq_of_toNat_eq
  rw [BitVec.toNat_ofNat, numberOf]
  omega

@[simp] theorem numberOf_cons_div (b : Byte) (bs : List Byte) : numberOf (b :: bs) / 256 = numberOf bs := by
  rw [numberOf]
  omega

/-- The table word of up to three bytes is read back as these bytes, filled up with zero bytes. -/
theorem tableBytes_numberOf (bs : List Byte) (h : bs.length ≤ 3) :
    tableBytes (8 * bs.length) (numberOf bs) = bs ++ List.replicate (3 - bs.length) 0 := by
  have hbytes : tableBytes (8 * bs.length) (numberOf bs) =
      [BitVec.ofNat 8 (numberOf bs), BitVec.ofNat 8 (numberOf bs / 256), BitVec.ofNat 8 (numberOf bs / 256 / 256)] := by
    rw [tableBytes, Nat.mod_eq_of_lt (numberOf_lt bs), Nat.div_div_eq_div_mul]
  rw [hbytes]
  match bs, h with
  | [], _ => rfl
  | [b], _ => simp
  | [b, c], _ => simp
  | [b, c, d], _ => simp

theorem length_le_three (i : Instr) : i.length ≤ 3 := by
  unfold Instr.length
  cases i.mode <;> decide

/-- The table word of an instruction is read back as its encoding and zero bytes. -/
theorem tableBytes_encode (i : Instr) :
    tableBytes (8 * i.length) (numberOf (encode i)) = encode i ++ List.replicate (3 - i.length) 0 := by
  have h := tableBytes_numberOf (encode i) ((encode_length i).trans_le (length_le_three i))
  rwa [encode_length] at h

/-- Three bytes placed at PC, where they do not cross the top, are the bytes found there. -/
theorem bytesAtPc_placeInstruction (s : State) (b c d : Byte) (h : s.pc.toNat + 3 ≤ 0x10000) :
    bytesAtPc (placeInstruction s [b, c, d]) = [b, c, d] := by
  have hread (k : Nat) (hk : k < 3) :
      (s.mem.writeBytes s.pc [b, c, d]).read (s.pc + BitVec.ofNat 16 k) = [b, c, d][k] := by
    rw [← Memory.read_writeBytes_inside [b, c, d] s.mem s.pc k h hk, BitVec.ofNat_add, BitVec.ofNat_toNat,
      BitVec.setWidth_eq]
  have hfirst : (s.mem.writeBytes s.pc [b, c, d]).read (s.pc + 0#16) = b := hread 0 (by decide)
  have hsecond : (s.mem.writeBytes s.pc [b, c, d]).read (s.pc + 1) = c := hread 1 (by decide)
  have hthird : (s.mem.writeBytes s.pc [b, c, d]).read (s.pc + 2) = d := hread 2 (by decide)
  rw [BitVec.add_zero] at hfirst
  simp only [bytesAtPc, placeInstruction, hfirst, hsecond, hthird]

/-- Placing an instruction's word puts the instruction into the table. -/
theorem wf_withFetchWord (i : Instr) (s : State) :
    i.wf (s.withFetchWord (8 * i.length) (numberOf (encode i))).cfg = true := by
  obtain ⟨row, hrow, -⟩ := tableRow_instr i
  have hcfg : (s.withFetchWord (8 * i.length) (numberOf (encode i))).cfg = s.cfg.withOpcode i.opcode := by
    rw [State.withFetchWord, tableBytes_encode]
    rfl
  rw [Instr.wf, hcfg]
  exact withOpcode_entry s.cfg i.opcode row hrow

/-- Settles O59: the word's bytes are the encoding and zero bytes, which decode to the instruction, in the word and at
PC, where the table holds it. -/
theorem placedInstructionRuns : Obligations.PlacedInstructionRuns := by
  unfold Obligations.PlacedInstructionRuns
  intro i s hpc
  have hdecode : decode (tableBytes (8 * i.length) (numberOf (encode i))) =
      .ok (i, List.replicate (3 - i.length) 0) := by
    rw [tableBytes_encode]
    exact decode_encode_append i _
  refine ⟨by simp [decodeTableWord, hdecode], ?_⟩
  have hplaced := (congrArg decode (bytesAtPc_placeInstruction s _ _ _ hpc)).trans hdecode
  exact stepRunsTheFetchedInstruction _ i _ rfl hplaced (wf_withFetchWord i s)
    fun _ => (Nat.add_le_add_left (length_le_three i) _).trans hpc

/-! ## A run under fuel, by its first step (R309, R312) -/

theorem noHaltWithin_zero (s : State) : NoHaltWithin 0 s :=
  fun _ hj hj' => absurd hj (Nat.not_lt.mpr hj')

/-- The steps 1 to `m + 1` are made without a halt when the first is, and the `m` steps after it are. -/
theorem noHaltWithin_succ_iff (m : Nat) (s : State) :
    NoHaltWithin (m + 1) s ↔ ∃ u, step s = .next u ∧ (∀ r, u.phase ≠ .halted r) ∧ NoHaltWithin m u := by
  constructor
  · intro h
    obtain ⟨u, hsteps, hu⟩ := h 1 Nat.one_pos (Nat.le_add_left 1 m)
    obtain ⟨_, hstep, ⟨⟩⟩ := (steps_succ_eq_next_iff 0 s u).mp hsteps
    refine ⟨u, hstep, hu, fun j hj hjm => ?_⟩
    obtain ⟨v, hv, hphase⟩ := h (j + 1) j.succ_pos (Nat.succ_le_succ hjm)
    obtain ⟨u', hstep', hsteps'⟩ := (steps_succ_eq_next_iff j s v).mp hv
    cases hstep.symm.trans hstep'
    exact ⟨v, hsteps', hphase⟩
  · rintro ⟨u, hstep, hu, h⟩ j hj hjm
    rcases j with _ | _ | j
    · exact absurd hj (Nat.lt_irrefl 0)
    · exact ⟨u, (steps_succ_eq_next_iff 0 s u).mpr ⟨u, hstep, rfl⟩, hu⟩
    · obtain ⟨v, hsteps, hphase⟩ := h (j + 1) j.succ_pos (Nat.le_of_succ_le_succ hjm)
      exact ⟨v, (steps_succ_eq_next_iff (j + 1) s v).mpr ⟨u, hstep, hsteps⟩, hphase⟩

theorem not_haltsFirst_zero (s t : State) (r : HaltReason) : ¬ HaltsFirst 0 s r t := by
  rintro ⟨k, hk, -⟩
  exact Nat.not_lt_zero k hk

/-- The first halt among `n + 1` steps is the first step's, or, if that does not halt, the first among the `n` after it. -/
theorem haltsFirst_succ_iff (n : Nat) (s t : State) (r : HaltReason) :
    HaltsFirst (n + 1) s r t ↔ ∃ u, step s = .next u ∧
      ((u = t ∧ t.phase = .halted r) ∨ ((∀ q, u.phase ≠ .halted q) ∧ HaltsFirst n u r t)) := by
  constructor
  · rintro ⟨k, hk, hsteps, hhalt, hbefore⟩
    obtain ⟨u, hstep, hrest⟩ := (steps_succ_eq_next_iff k s t).mp hsteps
    refine ⟨u, hstep, ?_⟩
    cases k with
    | zero =>
      cases hrest
      exact .inl ⟨rfl, hhalt⟩
    | succ k =>
      obtain ⟨u', hstep', hu, hbefore'⟩ := (noHaltWithin_succ_iff k s).mp hbefore
      cases hstep.symm.trans hstep'
      exact .inr ⟨hu, k, Nat.lt_of_succ_lt_succ hk, hrest, hhalt, hbefore'⟩
  · rintro ⟨u, hstep, ⟨rfl, hhalt⟩ | ⟨hu, k, hk, hrest, hhalt, hbefore⟩⟩
    · exact ⟨0, n.succ_pos, (steps_succ_eq_next_iff 0 s u).mpr ⟨u, hstep, rfl⟩, hhalt, noHaltWithin_zero s⟩
    · exact ⟨k + 1, Nat.succ_lt_succ hk, (steps_succ_eq_next_iff (k + 1) s t).mpr ⟨u, hstep, hrest⟩, hhalt,
        (noHaltWithin_succ_iff k s).mpr ⟨u, hstep, hu, hbefore⟩⟩

theorem phase_of_haltsFirst {n : Nat} {s t : State} {r : HaltReason} (h : HaltsFirst n s r t) : t.phase = .halted r := by
  obtain ⟨-, -, -, hhalt, -⟩ := h
  exact hhalt

/-- The first halt among some steps is the first among more. -/
theorem haltsFirst_of_le {n m : Nat} {s t : State} {r : HaltReason} (h : HaltsFirst n s r t) (hle : n ≤ m) :
    HaltsFirst m s r t := by
  obtain ⟨k, hk, h⟩ := h
  exact ⟨k, hk.trans_le hle, h⟩

/-- A run halts at its first step, or goes on from it and halts later. -/
theorem run_succ_eq_halted_iff (n : Nat) (s t : State) (r : HaltReason) :
    State.run (n + 1) s = .halted r t ↔ ∃ u, step s = .next u ∧
      ((u = t ∧ t.phase = .halted r) ∨ ((∀ q, u.phase ≠ .halted q) ∧ State.run n u = .halted r t)) := by
  rcases run_cases n s with ⟨hnone, hrun⟩ | ⟨u, q, hstep, hq, hrun⟩ | ⟨u, hstep, hu, hrun⟩
  · simp [hrun, hnone]
  · simp only [hrun, hstep, RunEnd.halted.injEq, Host.Outcome.next.injEq, exists_eq_left']
    constructor
    · rintro ⟨rfl, rfl⟩
      exact .inl ⟨rfl, hq⟩
    · rintro (⟨rfl, hr⟩ | ⟨hu, -⟩)
      · exact ⟨Phase.halted.inj (hq.symm.trans hr), rfl⟩
      · exact absurd hq (hu q)
  · simp only [hrun, hstep, Host.Outcome.next.injEq, exists_eq_left']
    refine ⟨fun h => .inr ⟨hu, h⟩, ?_⟩
    rintro (⟨rfl, hr⟩ | ⟨-, h⟩)
    · exact absurd hr (hu r)
    · exact h

/-- A run that uses up its fuel makes its first step without a halt and uses up the rest after it. -/
theorem run_succ_eq_outOfFuel_iff (n : Nat) (s t : State) :
    State.run (n + 1) s = .outOfFuel t ↔
      ∃ u, step s = .next u ∧ (∀ q, u.phase ≠ .halted q) ∧ State.run n u = .outOfFuel t := by
  rcases run_cases n s with ⟨hnone, hrun⟩ | ⟨u, q, hstep, hq, hrun⟩ | ⟨u, hstep, hu, hrun⟩
  · simp [hrun, hnone]
  · simp [hrun, hstep, hq]
  · simp [hrun, hstep, hu]

theorem run_eq_halted_iff (n : Nat) (s t : State) (r : HaltReason) :
    State.run n s = .halted r t ↔ HaltsFirst n s r t := by
  induction n generalizing s with
  | zero => exact iff_of_false nofun (not_haltsFirst_zero s t r)
  | succ n ih => simp only [run_succ_eq_halted_iff, haltsFirst_succ_iff, ih]

theorem run_eq_outOfFuel_iff (n : Nat) (s t : State) :
    State.run n s = .outOfFuel t ↔ steps n s = .next t ∧ NoHaltWithin n s := by
  induction n generalizing s with
  | zero => simp [State.run, noHaltWithin_zero]
  | succ n ih =>
    rw [run_succ_eq_outOfFuel_iff, steps_succ_eq_next_iff, noHaltWithin_succ_iff]
    cases step s <;> simp [ih, and_left_comm]

/-- A running machine's steps leave it running until one halts, so its run lacks none (R309). -/
theorem run_ne_noStep (n : Nat) (s : State) (hs : s.phase = .running) : State.run n s ≠ .noStep := by
  induction n generalizing s with
  | zero => nofun
  | succ n ih =>
    obtain ⟨t, hstep, hout⟩ := step_outcome s hs
    rcases hout.running_or_halted with ht | ⟨r, hr⟩
    · rw [run_goes_on n s t hstep (by simp [ht])]
      exact ih t ht
    · rw [run_halts n s t r hstep hr]
      nofun

/-- Settles O55: by their first steps a run and the steps in a row agree, a first halt stays one among more steps, and a
running machine never lacks a step. -/
theorem runStopsAtTheFirstHalt : Obligations.RunStopsAtTheFirstHalt := by
  unfold Obligations.RunStopsAtTheFirstHalt
  refine ⟨run_eq_halted_iff, run_eq_outOfFuel_iff, fun n k s t r hrun => ?_, run_ne_noStep⟩
  have hfirst := (run_eq_halted_iff n s t r).mp hrun
  exact ⟨phase_of_haltsFirst hfirst,
    (run_eq_halted_iff _ s t r).mpr (haltsFirst_of_le hfirst (Nat.le_add_right n k))⟩

end Sys2Proof.Proofs

/-! Exceptions (60_exceptions.md): a byte that the configuration's table leaves out halts the machine. -/

namespace Sys2Proof.Proofs

open Sys2Proof Sys2Proof.Machine Sys2Proof.Claims

/-- A byte that is the opcode of no held instruction has no entry (R42, R97). -/
theorem entry_eq_none_of_not_inTable {cfg : Config} {op : Byte} (h : ∀ i : Instr, i.opcode = op → ¬ inTable cfg i) :
    cfg.entry op = none := by
  refine Option.not_isSome_iff_eq_none.mp fun hsome => ?_
  obtain ⟨i, hop, hheld⟩ := (tableOfEachConfiguration cfg op).1.mp hsome
  exact h i hop hheld

/-- Settles O6: the byte has no entry, and the lookup comes before any operand byte is read. -/
theorem absentOpcodeHalts : Obligations.AbsentOpcodeHalts := by
  unfold Obligations.AbsentOpcodeHalts
  exact fun s hs h => step_of_entry_none s hs (entry_eq_none_of_not_inTable h)

end Sys2Proof.Proofs

/-! Reset and load (70_reset_and_hazards.md): the values of a reset, what a load writes, and an interpretation, which loads,
resets and runs. -/

namespace Sys2Proof.Proofs

open Sys2Proof Sys2Proof.Machine Sys2Proof.Claims

/-- Settles O52: a reset fixes everything but PC, whose bytes are the vector's, low byte first. -/
theorem resetStateValues : Obligations.ResetStateValues := by
  unfold Obligations.ResetStateValues
  exact fun s => ⟨rfl, rfl, rfl, leWord_toNat _ _, rfl, rfl, rfl, rfl⟩

/-! ## Load (R362, R363) -/

/-- Memory after a load: the program at 0x8000, then the reset vector over it. -/
def loadedMemory (m : Memory) (program : List Byte) : Memory :=
  ((m.writeBytes 0x8000 program).write 0xFFFC 0x00).write 0xFFFD 0x80

theorem load_eq (s : State) (program : List Byte) (h : program.length ≤ 0x8000) :
    s.load program = .ok { s with mem := loadedMemory s.mem program } := by
  have hrange := writeRange_eq s.mem 0x8000 program (Nat.add_le_add_left h 0x8000)
  have hvector := write16_eq s.cfg.topPolicy (s.mem.writeBytes 0x8000 program) 0xFFFC 0x8000 (.inl (by decide))
  simp only [State.load, hrange, hvector]
  rfl

theorem load_overflow (s : State) (program : List Byte) (h : 0x8000 < program.length) :
    s.load program = .error .rangeOverflow := by
  simp only [State.load, writeRange_overflow s.mem 0x8000 program (Nat.add_lt_add_left h 0x8000)]

/-- A load that succeeds leaves the state but for memory, because one that overflows answers no state. -/
theorem eq_of_load {s t : State} {program : List Byte} (h : s.load program = .ok t) :
    t = { s with mem := loadedMemory s.mem program } := by
  rcases Nat.lt_or_ge 0x8000 program.length with hlong | hfits
  · rw [load_overflow s program hlong] at h
    cases h
  · rw [load_eq s program hfits] at h
    cases h
    rfl

@[simp] theorem read_loadedMemory_low (m : Memory) (program : List Byte) :
    (loadedMemory m program).read 0xFFFC = 0x00 :=
  read_first_of_write_pair (m.writeBytes 0x8000 program) 0xFFFC 0x00 0x80

@[simp] theorem read_loadedMemory_high (m : Memory) (program : List Byte) :
    (loadedMemory m program).read 0xFFFD = 0x80 :=
  Memory.read_write_same _ _ _

/-- Beside the reset vector, memory after a load is that of the program's bytes written. -/
theorem read_loadedMemory_beside_vector (m : Memory) (program : List Byte) (b : Word) (hlow : b ≠ 0xFFFC)
    (hhigh : b ≠ 0xFFFD) : (loadedMemory m program).read b = (m.writeBytes 0x8000 program).read b := by
  rw [loadedMemory, Memory.read_write_other _ _ _ _ hhigh, Memory.read_write_other _ _ _ _ hlow]

/-- Settles O53: the vector's two bytes are written last, and the program that fits stands beside them. -/
theorem loadWritesProgramThenVector : Obligations.LoadWritesProgramThenVector := by
  unfold Obligations.LoadWritesProgramThenVector
  refine fun s program => ⟨fun h => ?_, load_overflow s program⟩
  have hfits : (0x8000 : Word).toNat + program.length ≤ 0x10000 := Nat.add_le_add_left h 0x8000
  refine ⟨loadedMemory s.mem program, load_eq s program h, read_loadedMemory_low _ _, read_loadedMemory_high _ _,
    fun k hk hlow hhigh => ?_, fun b hb hlow hhigh => ?_⟩
  · rw [read_loadedMemory_beside_vector _ _ _ (by bv_omega) (by bv_omega)]
    exact Memory.read_writeBytes_inside program s.mem 0x8000 k hfits hk
  · rw [read_loadedMemory_beside_vector _ _ _ hlow hhigh]
    exact Memory.read_writeBytes_outside program s.mem 0x8000 b hfits hb

/-- Settles O54: the reset reads 0x8000 from the vector that the load wrote. -/
theorem loadThenResetStartsAt8000 : Obligations.LoadThenResetStartsAt8000 := by
  unfold Obligations.LoadThenResetStartsAt8000
  intro s t program h
  obtain rfl := eq_of_load h
  simp only [State.restart, read_loadedMemory_low, read_loadedMemory_high]
  rfl

/-! ## Interpretation (R365) -/

/-- Settles O60: a program that fits loads, and the run from the reset is that of O55. -/
theorem interpretLoadsResetsAndRuns : Obligations.InterpretLoadsResetsAndRuns := by
  unfold Obligations.InterpretLoadsResetsAndRuns
  refine fun fuel s program => ⟨fun h => interpret_error fuel s program _ (load_overflow s program h), fun h => ?_⟩
  have hload := load_eq s program h
  exact ⟨_, _, hload, interpret_ok fuel s _ program hload, run_ne_noStep fuel _ rfl,
    fun r u => run_eq_halted_iff fuel _ u r, fun u => run_eq_outOfFuel_iff fuel _ u⟩

end Sys2Proof.Proofs
